-- ==== Sys2Proof/Word.lean ====
section
/-! DEFINITION. The value widths of the machine (00_scope.md R6, R8, R9): everything is an unsigned bit vector.
Bit 0 is the least significant bit. -/

namespace Sys2Proof

/-- 8 bits: a general register, a byte of memory, a timer, the immediate `kk` (R20, R23, R29, R73). -/
abbrev Byte := BitVec 8

/-- 16 bits: an instruction word, `pc`, `I`, a stack slot (R25, R26, R27, R71). -/
abbrev Word := BitVec 16

/-- 4 bits: the register indices `x` and `y` and the sprite height `n` (R73). -/
abbrev Nibble := BitVec 4

/-- 12 bits: the address operand `nnn` (R73). -/
abbrev Addr := BitVec 12

end Sys2Proof
end

