-- ==== Sys2Proof/Config.lean ====
section
/-! DEFINITION. The parameters of the machine (00_scope.md R6) and its one free value, the random byte.
The two open parameters have their defaults where a repair can mend them: `GLYPH_ROM`, an argument of construction, in
Machine/Glyphs.lean, and the choice among the out-of-range policies in Machine/Ops.lean. -/

namespace Sys2Proof.Config

/-- `MEM_SIZE`: addresses 0x000 to 0xFFF exist (R6, R23, R50). -/
abbrev memSize : Nat := 0x1000

/-- `NREG` (R6, R20). -/
abbrev numRegs : Nat := 16

/-- `STACK_CAP` (R6, R27). -/
abbrev stackCap : Nat := 16

/-- `DISP_ROWS` (R6, R30). -/
abbrev dispRows : Nat := 32

/-- `DISP_COLS` (R6, R30). -/
abbrev dispCols : Nat := 64

/-- `NKEYS` (R6, R31). -/
abbrev numKeys : Nat := 16

/-- `GLYPH_BASE` (R6, R24; 92_eei_decisions.md D11). -/
abbrev glyphBase : Nat := 0x050

/-- `GLYPH_BYTES` for one glyph (R6, R24). -/
abbrev glyphBytes : Nat := 5

/-- The size of `GLYPH_ROM`: 16 glyphs of 5 bytes (R6, R24). -/
abbrev glyphRomSize : Nat := 80

/-- The values of the open parameter `GLYPH_ROM` (R6, R24; 92_eei_decisions.md D11): any 80 bytes, glyph d at offset 5*d.
`Machine.State.construct` takes one as its argument; the spec's default is `Machine.glyphRom`. -/
abbrev GlyphRom : Type := Vector Byte glyphRomSize

/-- `PC_RESET` (R6, R26). -/
abbrev pcReset : Word := 0x200#16

/-- `LOAD_BASE` (R6, R245). -/
abbrev loadBase : Nat := 0x200

/-- `INSN_BYTES` (R6, R71). -/
abbrev insnBytes : Nat := 2

/-- The values of the open parameter `OOB_POLICY`: what an access above 0xFFF does (92_eei_decisions.md D3;
20_memory.md R54). The spec's default, `fault`, is the one the machine is built with (`Machine.oobPolicy`). -/
inductive OobPolicy where
  /-- The access raises `Fatal(AddressOutOfRange)`: the rule of R54. -/
  | fault
  /-- The address is taken modulo 4096. -/
  | wrap12
  /-- The address is taken modulo 65536, and the access faults if it is still above 0xFFF. -/
  | wrap16ThenFault
  /-- A read gives 0 and a write is dropped. -/
  | ignore
  deriving DecidableEq, Repr

/-- `RandomByte()`: the byte on the port `rnd[7:0]` at the `k`-th draw of a run (44_index_jump_random.md R152; D13).
A FREE VALUE: it has no body, so nothing can be proved of any draw; `State.draws` counts the draws. -/
opaque randomByte : Nat → Byte

end Sys2Proof.Config
end

