-- ==== Sys2Proof/Syntax.lean ====
section
/-! DEFINITION. The instructions: one constructor for each of the 34 rows of spec/opcode_table.json, in the order of
the table (30_encoding.md R76). An operand's type has the width of its field (R73), so that an index out of range
cannot be written ("impossible by construction", 10_state.md R20). -/

namespace Sys2Proof

inductive Instr where
  /-- 00E0, CLS (R100). -/
  | cls
  /-- 00EE, RET (R101). -/
  | ret
  /-- 1nnn, JP nnn (R110). -/
  | jp (nnn : Addr)
  /-- 2nnn, CALL nnn (R111). -/
  | call (nnn : Addr)
  /-- 3xkk, SE Vx, kk (R112). -/
  | seImm (x : Nibble) (kk : Byte)
  /-- 4xkk, SNE Vx, kk (R113). -/
  | sneImm (x : Nibble) (kk : Byte)
  /-- 5xy0, SE Vx, Vy (R114). -/
  | seReg (x y : Nibble)
  /-- 9xy0, SNE Vx, Vy (R115). -/
  | sneReg (x y : Nibble)
  /-- 6xkk, LD Vx, kk (R120). -/
  | ldImm (x : Nibble) (kk : Byte)
  /-- 7xkk, ADD Vx, kk (R121). -/
  | addImm (x : Nibble) (kk : Byte)
  /-- 8xy0, LD Vx, Vy (R130). -/
  | ldReg (x y : Nibble)
  /-- 8xy1, OR Vx, Vy (R131). -/
  | orReg (x y : Nibble)
  /-- 8xy2, AND Vx, Vy (R132). -/
  | andReg (x y : Nibble)
  /-- 8xy3, XOR Vx, Vy (R133). -/
  | xorReg (x y : Nibble)
  /-- 8xy4, ADD Vx, Vy (R134). -/
  | addReg (x y : Nibble)
  /-- 8xy5, SUB Vx, Vy (R135). -/
  | subReg (x y : Nibble)
  /-- 8xy6, SHR Vx (R136). The field `y` is decoded and ignored (R80); it is kept so that no bit of the word is lost. -/
  | shr (x y : Nibble)
  /-- 8xy7, SUBN Vx, Vy (R137). -/
  | subnReg (x y : Nibble)
  /-- 8xyE, SHL Vx (R138). The field `y` is decoded and ignored (R80). -/
  | shl (x y : Nibble)
  /-- Annn, LD I, nnn (R150). -/
  | ldI (nnn : Addr)
  /-- Bnnn, JP V0, nnn (R151). -/
  | jpV0 (nnn : Addr)
  /-- Cxkk, RND Vx, kk (R152). -/
  | rnd (x : Nibble) (kk : Byte)
  /-- Dxyn, DRW Vx, Vy, n (R160). -/
  | drw (x y n : Nibble)
  /-- Ex9E, SKP Vx (R170). -/
  | skp (x : Nibble)
  /-- ExA1, SKNP Vx (R171). -/
  | sknp (x : Nibble)
  /-- Fx07, LD Vx, DT (R180). -/
  | ldVxDT (x : Nibble)
  /-- Fx0A, LD Vx, K (R181). -/
  | ldVxK (x : Nibble)
  /-- Fx15, LD DT, Vx (R182). -/
  | ldDTVx (x : Nibble)
  /-- Fx18, LD ST, Vx (R183). -/
  | ldSTVx (x : Nibble)
  /-- Fx1E, ADD I, Vx (R190). -/
  | addIVx (x : Nibble)
  /-- Fx29, LD F, Vx (R191). -/
  | ldFVx (x : Nibble)
  /-- Fx33, LD B, Vx (R192). -/
  | ldBVx (x : Nibble)
  /-- Fx55, LD [I], Vx (R193). -/
  | storeRegs (x : Nibble)
  /-- Fx65, LD Vx, [I] (R194). -/
  | loadRegs (x : Nibble)
  deriving DecidableEq, Repr

end Sys2Proof
end

