-- ==== Sys2Proof/WellFormed.lean ====
section
/-! DEFINITION. Which terms are well formed. -/

namespace Sys2Proof

/-- A register index selects one of the general registers (10_state.md R20). -/
def regOk (x : Nibble) : Bool := x.toNat < Config.numRegs

/-- The operands of an instruction are in range: register indices below `NREG` (R20), addresses below `MEM_SIZE`
(R73). The field widths already give both, so every term passes (`Laws.wellFormed_all`): "out-of-range register ...
indices are impossible by construction". The immediates `kk` and `n` have no range smaller than their width. -/
def Instr.wellFormed : Instr → Bool
  | .cls => true
  | .ret => true
  | .jp nnn => nnn.toNat < Config.memSize
  | .call nnn => nnn.toNat < Config.memSize
  | .seImm x _ => regOk x
  | .sneImm x _ => regOk x
  | .seReg x y => regOk x && regOk y
  | .sneReg x y => regOk x && regOk y
  | .ldImm x _ => regOk x
  | .addImm x _ => regOk x
  | .ldReg x y => regOk x && regOk y
  | .orReg x y => regOk x && regOk y
  | .andReg x y => regOk x && regOk y
  | .xorReg x y => regOk x && regOk y
  | .addReg x y => regOk x && regOk y
  | .subReg x y => regOk x && regOk y
  | .shr x y => regOk x && regOk y
  | .subnReg x y => regOk x && regOk y
  | .shl x y => regOk x && regOk y
  | .ldI nnn => nnn.toNat < Config.memSize
  | .jpV0 nnn => nnn.toNat < Config.memSize
  | .rnd x _ => regOk x
  | .drw x y _ => regOk x && regOk y
  | .skp x => regOk x
  | .sknp x => regOk x
  | .ldVxDT x => regOk x
  | .ldVxK x => regOk x
  | .ldDTVx x => regOk x
  | .ldSTVx x => regOk x
  | .addIVx x => regOk x
  | .ldFVx x => regOk x
  | .ldBVx x => regOk x
  | .storeRegs x => regOk x
  | .loadRegs x => regOk x

/-- A program image the loader accepts: it does not "write past the end of addressable memory" (70_reset_and_hazards.md
R245), that is, its length is at most 3584. Nothing else is asked of an image; an odd or zero length is accepted. -/
def imageOk (image : List Byte) : Bool := Config.loadBase + image.length ≤ Config.memSize

end Sys2Proof
end

