-- ==== Sys2Proof/Machine/Glyphs.lean ====
section
/-! DEFINITION. The default of the open parameter `GLYPH_ROM` (10_state.md R24; 92_eei_decisions.md D11), and the byte of a
glyph set. A machine is constructed with any glyph set (`State.construct`); the table is only the spec's default, from general knowledge (93_implementation_defined.md G3; PRESUMED, unsafe, notes/assumptions 9); no statement
of ours rests on a byte of it. -/

namespace Sys2Proof.Machine

/-- The default of `GLYPH_ROM`: 16 glyphs of 5 rows, glyph d at offset 5*d. -/
def glyphRom : Config.GlyphRom := Vector.mk (List.toArray (
  [0xF0, 0x90, 0x90, 0x90, 0xF0] ++ [0x20, 0x60, 0x20, 0x20, 0x70] ++
  [0xF0, 0x10, 0xF0, 0x80, 0xF0] ++ [0xF0, 0x10, 0xF0, 0x10, 0xF0] ++
  [0x90, 0x90, 0xF0, 0x10, 0x10] ++ [0xF0, 0x80, 0xF0, 0x10, 0xF0] ++
  [0xF0, 0x80, 0xF0, 0x90, 0xF0] ++ [0xF0, 0x10, 0x20, 0x40, 0x40] ++
  [0xF0, 0x90, 0xF0, 0x90, 0xF0] ++ [0xF0, 0x90, 0xF0, 0x10, 0xF0] ++
  [0xF0, 0x90, 0xF0, 0x90, 0x90] ++ [0xE0, 0x90, 0xE0, 0x90, 0xE0] ++
  [0xF0, 0x80, 0x80, 0x80, 0xF0] ++ [0xE0, 0x90, 0x90, 0x90, 0xE0] ++
  [0xF0, 0x80, 0xF0, 0x80, 0xF0] ++ [0xF0, 0x80, 0xF0, 0x80, 0x80])) rfl

/-- The byte at offset `k` of a glyph set. -/
def glyphByte (rom : Config.GlyphRom) (k : Nat) : Byte := rom[k]?.getD 0

end Sys2Proof.Machine
end

