-- ==== Sys2Proof/Machine/State.lean ====
section
/-! DEFINITION. The state of the machine (10_state.md), the outputs of its last step (60_exceptions.md R218), and the
model's own bookkeeping: which agent moves next and how many random bytes were drawn. -/

namespace Sys2Proof.Machine

/-- The fatal conditions (60_exceptions.md R201, R223). An instruction that meets one TAKES it: a next state in which
`HALT` holds it (`State.raise`). Once `HALT` is set the machine is stopped for good, and an engine step of `Machine.step`
ends in the `fault` of that name (R202, "must stop execution"). All three are safe: the machine goes no further than the
spec says it goes. -/
inductive Fault where
  /-- Raised by CALL with 16 return addresses on the stack (R203). Safe. -/
  | stackOverflow
  /-- Raised by RET with an empty stack (R204). Safe. -/
  | stackUnderflow
  /-- Raised by a fetch, or by DRW, LD B, LD [I] and LD Vx,[I], when an accessed address exceeds 0xFFF (R205).
  Safe: the document leaves the access open, and a stop proves nothing false (92_eei_decisions.md D3). -/
  | addressOutOfRange
  deriving DecidableEq, Repr

/-- Why a step has no meaning. -/
inductive Refusal where
  /-- An instruction that has no meaning yet, by its mnemonic. Raised by nobody now: every instruction has one. Safe. -/
  | notModelled (mnemonic : String)
  deriving DecidableEq, Repr

/-- What an engine step hands back to the host (R200): the output `status` of R218. -/
inductive Status where
  /-- An instruction or an `Unknown` word was executed. -/
  | ok
  /-- Fx0A found no key held: "machine halted pending input" (R207). -/
  | waitKey
  /-- The step raised a fatal condition (R201). -/
  | fatal (cause : Fault)
  deriving DecidableEq, Repr

/-- `Report(UnknownInstruction, w, a)` (R206): the output event `report` of R218. -/
structure Report where
  /-- The unknown word. -/
  word : Word
  /-- The address it was fetched from. -/
  addr : Word
  deriving DecidableEq, Repr

/-- One atomic move of one of the three agents (00_scope.md R7). -/
inductive Move where
  /-- The host calls `step`: one `execute_one` of the Execution Engine (30_encoding.md R70). -/
  | engine
  /-- The host calls `tick`: one `tick_timers` of the Timer Driver (60_exceptions.md R214). -/
  | tick
  /-- The host changes the keypad latch to these 16 bits (10_state.md R31). -/
  | setKeys (latch : BitVec 16)
  deriving DecidableEq, Repr

/-- The addressable memory of a machine constructed with a given glyph set. -/
structure Memory where
  /-- PARAMETER: the `GLYPH_ROM` the machine was constructed with (R6, R24; D11). It says what the unlisted addresses 0x050 to
  0x09F read as; nothing changes it, and a store into the region is listed like any other. -/
  glyphs : Config.GlyphRom
  /-- (address, byte) pairs: addresses strictly rising, no entry equal to what its address reads as when unlisted
  (`Memory.unlisted`), every address below 0x1000 (`Memory.wf`). -/
  cells : List Host.Cell
  deriving DecidableEq, Repr

/-- The display grid: 32 rows of 64 cells; cell (r, c) is bit c of row r (R30, and R218's `display[31:0][63:0]`). -/
abbrev Display := Vector (BitVec 64) Config.dispRows

structure State where
  /-- `V[0]` to `V[15]` (R20). -/
  v : Vector Byte Config.numRegs
  /-- The index register `I` (R25). -/
  i : Word
  /-- The program counter (R26). -/
  pc : Word
  /-- `stack[0]` to `stack[15]` (R27). -/
  stack : Vector Word Config.stackCap
  /-- `SP`, the depth: 0 to 16 (R27; D14). -/
  sp : Fin (Config.stackCap + 1)
  /-- The delay timer `DT` (R29). -/
  dt : Byte
  /-- The sound timer `ST` (R29). -/
  st : Byte
  /-- The display grid `Pix` (R30). -/
  pix : Display
  /-- The keypad latch: `Key[k]` is bit k (R31). An input: the host owns it. -/
  keys : BitVec 16
  /-- The fatal latch `HALT` (R32). -/
  halt : Option Fault
  /-- The addressable memory `mem` (R23). -/
  mem : Memory
  /-- OUTPUT PORT: the status the last engine step handed back (R200, R218). No step reads it. -/
  status : Status
  /-- OUTPUT PORT: the report the last engine step made, if it made one (R206, R218). No step reads it. -/
  report : Option Report
  /-- THE MODEL'S OWN: how many random bytes have been drawn; it picks the next free value (R152). -/
  draws : Nat
  /-- THE MODEL'S OWN: the moves the host will make next, first one first; after the last the host goes on calling
  `step`. R7 and R215 leave the interleaving to the host, so a claim holds for every schedule. -/
  schedule : List Move
  deriving DecidableEq, Repr

/-- Construction (10_state.md R36, 70_reset_and_hazards.md R240, R241) of a machine whose `GLYPH_ROM` is `rom` (R24; D11):
everything zero, `pc` at 0x200, the glyph set installed (nothing listed in memory: `Memory.unlisted` gives the glyph bytes
and zeros). The last four fields are the model's own (notes/assumptions 3, 4 and 5). -/
def State.construct (rom : Config.GlyphRom) : State where
  v := Vector.replicate Config.numRegs 0
  i := 0
  pc := Config.pcReset
  stack := Vector.replicate Config.stackCap 0
  sp := 0
  dt := 0
  st := 0
  pix := Vector.replicate Config.dispRows 0
  keys := 0
  halt := none
  mem := { glyphs := rom, cells := [] }
  status := .ok
  report := none
  draws := 0
  schedule := []

/-- The machine right after construction with the default glyph set (R24; PRESUMED, unsafe, notes/assumptions 9). -/
def State.reset : State := State.construct glyphRom

end Sys2Proof.Machine
end

