-- ==== Sys2Proof/Machine/Ops.lean ====
section
/-! DEFINITION. The named operations over the state: memory, registers, the stack, the display, the timers, fetching a
word, taking a fatal condition, the report. Every instruction is written over these (00_scope.md R10). -/

namespace Sys2Proof.Machine

/-! ### Memory as data -/

/-- What an address that is not listed reads as in a machine constructed with `rom`: the reset contents, the glyph set at
0x050 to 0x09F and 0 elsewhere (10_state.md R23, R24, R36). -/
def Memory.unlisted (rom : Config.GlyphRom) (a : Nat) : Byte :=
  if Config.glyphBase ≤ a ∧ a < Config.glyphBase + Config.glyphRomSize then glyphByte rom (a - Config.glyphBase) else 0

/-- The byte at address `a` of a list of cells. -/
def Memory.readCells (rom : Config.GlyphRom) : List Host.Cell → Nat → Byte
  | [], a => Memory.unlisted rom a
  | (a', b) :: rest, a => if a' = a then b else Memory.readCells rom rest a

/-- The byte at address `a`. -/
def Memory.read (m : Memory) (a : Nat) : Byte := Memory.readCells m.glyphs m.cells a

/-- Lists `b` at `a`, keeping the addresses rising. -/
def Memory.insertCell (a : Nat) (b : Byte) : List Host.Cell → List Host.Cell
  | [] => [(a, b)]
  | (a', b') :: rest =>
    if a < a' then (a, b) :: (a', b') :: rest
    else if a = a' then (a, b) :: rest
    else (a', b') :: Memory.insertCell a b rest

/-- Takes `a` off the list. -/
def Memory.removeCell (a : Nat) : List Host.Cell → List Host.Cell
  | [] => []
  | (a', b') :: rest => if a' = a then Memory.removeCell a rest else (a', b') :: Memory.removeCell a rest

/-- `mem[a] <- b`, in canonical form: a byte equal to what the unlisted address reads as is not listed. -/
def Memory.write (m : Memory) (a : Nat) (b : Byte) : Memory :=
  { m with cells := if b = Memory.unlisted m.glyphs a then Memory.removeCell a m.cells else Memory.insertCell a b m.cells }

/-- The canonical form of a list of cells: addresses strictly rising, each below `MEM_SIZE`, no entry equal to what its
address reads as unlisted. -/
def Memory.wfCells (rom : Config.GlyphRom) : List Host.Cell → Bool
  | [] => true
  | (a, b) :: rest =>
    decide (a < Config.memSize) && b != Memory.unlisted rom a && rest.all (fun c => decide (a < c.1)) &&
      Memory.wfCells rom rest

/-- Memory is in canonical form. -/
def Memory.wf (m : Memory) : Bool := Memory.wfCells m.glyphs m.cells

/-! ### Accesses (20_memory.md R52 to R55, R66) -/

/-- `OOB_POLICY`, at the spec's default: an access above 0xFFF is fatal (R54; D3). DESIGN CHOICE, safe (notes/assumptions 8). -/
def oobPolicy : Config.OobPolicy := .fault

/-- Where an access at an unbounded address lands. -/
inductive Place where
  /-- A byte of `mem`. -/
  | cell (a : Nat)
  /-- Nowhere: a read gives 0 and a write is dropped. -/
  | absent
  /-- The access raises `Fatal(AddressOutOfRange)`. -/
  | outOfRange
  deriving DecidableEq, Repr

/-- An address of `mem`, or `other` above 0xFFF. -/
def inMemOr (a : Nat) (other : Place) : Place := if a < Config.memSize then .cell a else other

/-- Where the effective address `addr`, an unbounded sum (R54), lands under the machine's policy. -/
def place (addr : Nat) : Place :=
  match oobPolicy with
  | .fault => inMemOr addr .outOfRange
  | .wrap12 => .cell (addr % Config.memSize)
  | .wrap16ThenFault => inMemOr (addr % 65536) .outOfRange
  | .ignore => inMemOr addr .absent

/-- No access at `base`, `base + 1`, ... `base + count - 1` is out of range. An instruction checks all its addresses before
its first write (R66); with `count = 0` it accesses nothing and the check holds. -/
def rangeOk (base count : Nat) : Bool := (List.range count).all fun k => place (base + k) != .outOfRange

/-- `MemRead(addr, 1)` of a checked address (R52): no side effect. -/
def memRead (m : Memory) (addr : Nat) : Byte :=
  match place addr with
  | .cell a => Memory.read m a
  | .absent => 0
  | .outOfRange => 0

/-- `MemWrite(addr, 1, b)` to a checked address (R53): every address of `mem` is writable, the glyph set included
(DESIGN CHOICE, unsafe, notes/assumptions 10), and nothing else changes. -/
def memWrite (m : Memory) (addr : Nat) (b : Byte) : Memory :=
  match place addr with
  | .cell a => Memory.write m a b
  | .absent => m
  | .outOfRange => m

/-- Stores the bytes at `addr`, `addr + 1`, ... in ascending order (R65). -/
def memWriteList (m : Memory) (addr : Nat) : List Byte → Memory
  | [] => m
  | b :: rest => memWriteList (memWrite m addr b) (addr + 1) rest

/-! ### Registers -/

/-- `V[x]` (R20). -/
def State.reg (s : State) (x : Nibble) : Byte := s.v[x.toNat]'x.isLt

/-- `V[x] <- b` (R20). -/
def State.setReg (s : State) (x : Nibble) (b : Byte) : State := { s with v := s.v.set x.toNat b x.isLt }

/-- `V[15] <- 1` if the flag holds, else 0 (R21, R22). -/
def State.setFlag (s : State) (flag : Bool) : State := s.setReg 15 (if flag then 1 else 0)

/-- `V[k] <- bs[k]` for the registers the list reaches; the others keep their value (R194). -/
def State.setRegs (s : State) (bs : List Byte) : State :=
  { s with v := s.v.mapIdx fun k old => bs.getD k old }

/-- `I <- w` (R25). -/
def State.setI (s : State) (w : Word) : State := { s with i := w }

/-- `pc <- w` (R26). -/
def State.setPc (s : State) (w : Word) : State := { s with pc := w }

/-- `pc <- pc + k`, modulo 65536 (R26; D7). DESIGN CHOICE, safe (notes/assumptions 14). -/
def State.advance (s : State) (k : Word) : State := s.setPc (s.pc + k)

/-- `DT <- b` (R29). -/
def State.setDT (s : State) (b : Byte) : State := { s with dt := b }

/-- `ST <- b` (R29). -/
def State.setST (s : State) (b : Byte) : State := { s with st := b }

/-- Replaces the memory. -/
def State.setMem (s : State) (m : Memory) : State := { s with mem := m }

/-- Replaces the display grid. -/
def State.setPix (s : State) (p : Display) : State := { s with pix := p }

/-- `RandomByte()` (R152): the next free value. DESIGN CHOICE, safe (notes/assumptions 3). -/
def State.randomByte (s : State) : Byte := Config.randomByte s.draws

/-- Counts the draw, so that the next one is a fresh value (R33). -/
def State.drawn (s : State) : State := { s with draws := s.draws + 1 }

/-! ### What a step hands back (60_exceptions.md) -/

/-- `raise Fatal(c)` (R201): nothing is written and `pc` stays; `HALT <- c` and the step returns `Fatal(c)`. There is no
saved pc or status, no mode and no handler (R210), and no return from it: only construction clears `HALT` (R202, R211).
DESIGN CHOICE, safe (notes/assumptions 6). -/
def State.raise (s : State) (c : Fault) : State := { s with halt := some c, status := .fatal c }

/-- The codes of the fatal conditions; nothing in the machine stores them (R223). -/
def Fault.code : Fault → Nat
  | .stackOverflow => 1
  | .stackUnderflow => 2
  | .addressOutOfRange => 3

/-- Returning `WaitKey`: nothing else changes (R207). -/
def State.wait (s : State) : State := { s with status := .waitKey }

/-- A step begins: it returns `Ok` and reports nothing unless it comes to say otherwise (R70, R200). -/
def State.beginStep (s : State) : State := { s with status := .ok, report := none }

/-- An `Unknown` word is reported and skipped (30_encoding.md R78, R206). -/
def State.skipUnknown (s : State) (w : Word) : State :=
  { s with report := some { word := w, addr := s.pc }, pc := s.pc + 2 }

/-! ### The stack controller (10_state.md R27) -/

/-- `Push(w)`. -/
def State.push (s : State) (w : Word) : Except Fault State :=
  if h : s.sp.val < Config.stackCap then
    .ok { s with stack := s.stack.set s.sp.val w h, sp := ⟨s.sp.val + 1, Nat.succ_lt_succ h⟩ }
  else .error .stackOverflow

/-- `Pop()`: the value, and the state with one entry less; the slot keeps its value (R101). -/
def State.pop (s : State) : Except Fault (Word × State) :=
  match s.sp with
  | ⟨0, _⟩ => .error .stackUnderflow
  | ⟨n + 1, h⟩ => .ok (s.stack[n]'(Nat.lt_of_succ_lt_succ h), { s with sp := ⟨n, Nat.lt_of_succ_lt h⟩ })

/-! ### Fetch (20_memory.md R55) -/

/-- `MemRead(pc, 2)`: big-endian, no alignment (R57), `AddressOutOfRange` when `pc` or `pc + 1` is above 0xFFF. -/
def fetch (s : State) : Except Fault Word :=
  if rangeOk s.pc.toNat Config.insnBytes then
    .ok (wordOfBytes (memRead s.mem s.pc.toNat) (memRead s.mem (s.pc.toNat + 1)))
  else .error .addressOutOfRange

/-! ### The display (10_state.md R30; 45_draw.md) -/

/-- `Pix[r][c]`, for a row and a column in any range: the grid wraps (R162). -/
def Display.cell (p : Display) (r c : Nat) : Bool :=
  (p[r % Config.dispRows]'(Nat.mod_lt _ (by decide))).getLsbD (c % Config.dispCols)

/-- `Pix[r][c] <- Pix[r][c] ^ 1`. -/
def Display.flip (p : Display) (r c : Nat) : Display :=
  p.set (r % Config.dispRows)
    ((p[r % Config.dispRows]'(Nat.mod_lt _ (by decide))) ^^^ (1#64 <<< (c % Config.dispCols)))
    (Nat.mod_lt _ (by decide))

/-- The grid and the collision flag `hit` while a sprite is drawn (R163). -/
structure Canvas where
  pix : Display
  hit : Bool
  deriving DecidableEq, Repr

/-- One sprite bit 1 at cell (r, c): a collision if the cell holds 1, and the cell is inverted (R160). -/
def Canvas.drawPixel (k : Canvas) (r c : Nat) : Canvas :=
  { pix := k.pix.flip r c, hit := k.hit || k.pix.cell r c }

/-- One sprite row: column `col` of the sprite is bit `7 - col` of its byte (R161; PRESUMED, unsafe, notes/assumptions 11);
a 0 bit touches nothing (R163). -/
def Canvas.drawByte (k : Canvas) (b : Byte) (r c : Nat) : Canvas :=
  (List.range 8).foldl (fun k col => if b.getLsbD (7 - col) then k.drawPixel r (c + col) else k) k

/-- The sprite of `n` rows at address `base`, its origin at row `y`, column `x` (R160, R162). -/
def Canvas.drawSprite (k : Canvas) (m : Memory) (base n y x : Nat) : Canvas :=
  (List.range n).foldl (fun k row => k.drawByte (memRead m (base + row)) (y + row) x) k

/-- The cleared grid (R100). -/
def Display.blank : Display := Vector.replicate Config.dispRows 0

/-! ### The keypad latch (46_keypad_skip.md R172; 47_timer_key.md R181) -/

/-- `Pressed(b)`: the whole byte is the index; 16 and more is never pressed (R172). -/
def State.pressed (s : State) (b : Byte) : Bool := decide (b.toNat < Config.numKeys) && s.keys.getLsbD b.toNat

/-- The smallest `k` with `Key[k]` true, if some key is held (R181). -/
def State.lowestKey (s : State) : Option Nat := (List.range Config.numKeys).find? fun k => s.keys.getLsbD k

/-! ### The other two agents (60_exceptions.md R214, R219) and the outputs (R216, R217) -/

/-- A timer one tick later: clamped at zero (R214). -/
def tickDown (b : Byte) : Byte := if b = 0 then 0 else b - 1

/-- `tick_timers`: both timers, and nothing else; it does not test `HALT` (R214, R224). -/
def State.tick (s : State) : State := { s with dt := tickDown s.dt, st := tickDown s.st }

/-- The host writes the keypad latch (R31, R219). -/
def State.setKeys (s : State) (latch : BitVec 16) : State := { s with keys := latch }

/-- `tone_active` (R217). -/
def State.toneActive (s : State) : Bool := s.st != 0

/-- The display read contract: the cell (r, c) as the last completed step left it (R216). -/
def State.pixel (s : State) (r c : Nat) : Bool := s.pix.cell r c

/-- The host's next move is taken off the schedule. -/
def State.setSchedule (s : State) (moves : List Move) : State := { s with schedule := moves }

/-! ### The loader's contract (70_reset_and_hazards.md R245) -/

/-- `load(image)`: the image's bytes from 0x200 up, or nothing if it is too large, in which case "the machine simply does
not start". The host calls it once, on a machine just constructed, before the first step (R219, R246). -/
def State.load (s : State) (image : List Byte) : Option State :=
  if imageOk image then some (s.setMem (memWriteList s.mem Config.loadBase image)) else none

end Sys2Proof.Machine
end

