-- ==== Sys2Proof/Machine/Operands.lean ====
section
/-! DEFINITION. The operand forms (30_encoding.md R73): a register index, the immediate `kk` (used as it is), the address
`nnn`, and the one addressing mode, `I` plus a small offset (48_index_memory.md). -/

namespace Sys2Proof.Machine

/-- `zext_16(nnn)` (R9, R73). -/
def addrOperand (nnn : Addr) : Word := nnn.setWidth 16

/-- `zext_16(V[x])`, as JP V0 and ADD I use a register (R151, R190). -/
def State.regWord (s : State) (x : Nibble) : Word := (s.reg x).setWidth 16

/-- The base address `I` as an unbounded number: `I + k` is not wrapped before the range check (R54). -/
def State.base (s : State) : Nat := s.i.toNat

/-- How many registers the block V0 to Vx holds: "inclusive range" (R193, R194). -/
def blockCount (x : Nibble) : Nat := x.toNat + 1

/-- `V[0]`, ..., `V[x]`, the bytes LD [I],Vx stores (R193). -/
def State.regBlock (s : State) (x : Nibble) : List Byte :=
  (List.range (blockCount x)).map fun k => s.reg (BitVec.ofNat 4 k)

/-- The bytes at `I`, ..., `I + x`, which LD Vx,[I] loads (R194). -/
def State.memBlock (s : State) (x : Nibble) : List Byte :=
  (List.range (blockCount x)).map fun k => memRead s.mem (s.base + k)

/-- The address of the glyph of `V[x]`'s low nibble, `GLYPH_BASE + 5 * (V[x] & 0xF)` (R191). -/
def glyphAddr (b : Byte) : Word := BitVec.ofNat 16 (Config.glyphBase + Config.glyphBytes * (b &&& 0xF).toNat)

/-- The hundreds, tens and ones digits (R192). -/
def bcdDigits (b : Byte) : List Byte :=
  [BitVec.ofNat 8 (b.toNat / 100), BitVec.ofNat 8 (b.toNat / 10 % 10), BitVec.ofNat 8 (b.toNat % 10)]

end Sys2Proof.Machine
end

