-- ==== Sys2Proof/Machine/Flags.lean ====
section
/-! DEFINITION. The flag values (10_state.md R22; 43_alu.md R139) and the one order in which a flag is written (R21). -/

namespace Sys2Proof.Machine

/-- ADD: the sum does not fit in 8 bits (R134). -/
def carryOut (a b : Byte) : Bool := decide (255 < a.toNat + b.toNat)

/-- SUB, SUBN: the minuend is not smaller than the subtrahend (R135, R137). -/
def noBorrow (a b : Byte) : Bool := decide (b.toNat ≤ a.toNat)

/-- SHR: bit 0 before the shift (R136). -/
def shiftedOutRight (a : Byte) : Bool := a.getLsbD 0

/-- SHL: bit 7 before the shift (R138). -/
def shiftedOutLeft (a : Byte) : Bool := a.getLsbD 7

/-- The result goes to `V[x]` and the flag to VF, the flag last, so that with `x = 15` VF ends holding the flag (R21, C3). -/
def State.setResultAndFlag (s : State) (x : Nibble) (result : Byte) (flag : Bool) : State :=
  (s.setReg x result).setFlag flag

end Sys2Proof.Machine
end

