-- ==== Sys2Proof/Machine/Finish.lean ====
section
/-! DEFINITION. How an instruction ends (30_encoding.md R77). -/

namespace Sys2Proof.Machine

/-- What a meaning answers. -/
abbrev Answer := Host.Outcome State Fault Refusal

/-- The instruction is done and `pc` goes on by one instruction, 2 bytes (R77). -/
def State.done (s : State) : Answer := .next (s.advance 2)

/-- A skip: `pc + 4` if the condition holds, else `pc + 2`; the skipped word is not fetched (R77, R112). -/
def State.skipIf (s : State) (cond : Bool) : Answer := .next (s.advance (if cond then 4 else 2))

/-- The instruction goes on only if the `count` bytes from `I` exist; otherwise it raises `Fatal(AddressOutOfRange)`,
having written nothing (20_memory.md R54, R66). -/
def State.withBlock (s : State) (count : Nat) (go : Answer) : Answer :=
  if rangeOk s.base count then go else .next (s.raise .addressOutOfRange)

end Sys2Proof.Machine
end

