-- ==== Sys2Proof/Machine/Alu.lean ====
section
/-! DEFINITION. Category 0x8: register-register operations (43_alu.md). The operands are read from the state before the
instruction; the flag, where there is one, is written last (R139). -/

namespace Sys2Proof.Machine

/-- LD Vx, Vy (R130). -/
def execLdReg (x y : Nibble) (s : State) : Answer := (s.setReg x (s.reg y)).done

/-- OR Vx, Vy: VF is not written as a flag (R131; D10). -/
def execOrReg (x y : Nibble) (s : State) : Answer := (s.setReg x (s.reg x ||| s.reg y)).done

/-- AND Vx, Vy: no flag (R132; D10). -/
def execAndReg (x y : Nibble) (s : State) : Answer := (s.setReg x (s.reg x &&& s.reg y)).done

/-- XOR Vx, Vy: no flag (R133; D10). -/
def execXorReg (x y : Nibble) (s : State) : Answer := (s.setReg x (s.reg x ^^^ s.reg y)).done

/-- ADD Vx, Vy: VF is the carry out (R134). -/
def execAddReg (x y : Nibble) (s : State) : Answer :=
  (s.setResultAndFlag x (s.reg x + s.reg y) (carryOut (s.reg x) (s.reg y))).done

/-- SUB Vx, Vy: VF is "no borrow" (R135). -/
def execSubReg (x y : Nibble) (s : State) : Answer :=
  (s.setResultAndFlag x (s.reg x - s.reg y) (noBorrow (s.reg x) (s.reg y))).done

/-- SHR Vx: the field `y` takes part in nothing (R136, R80). -/
def execShr (x _y : Nibble) (s : State) : Answer :=
  (s.setResultAndFlag x (s.reg x >>> 1) (shiftedOutRight (s.reg x))).done

/-- SUBN Vx, Vy: `Vy - Vx`, to `Vx` (R137). -/
def execSubnReg (x y : Nibble) (s : State) : Answer :=
  (s.setResultAndFlag x (s.reg y - s.reg x) (noBorrow (s.reg y) (s.reg x))).done

/-- SHL Vx: the field `y` takes part in nothing (R138, R80). -/
def execShl (x _y : Nibble) (s : State) : Answer :=
  (s.setResultAndFlag x (s.reg x <<< 1) (shiftedOutLeft (s.reg x))).done

end Sys2Proof.Machine
end

