-- ==== Sys2Proof/Machine/DisplayReturn.lean ====
section
/-! DEFINITION. Category 0x0: clear display and return (40_display_return.md). -/

namespace Sys2Proof.Machine

/-- CLS: every cell 0 (R100). -/
def execCls (s : State) : Answer := (s.setPix Display.blank).done

/-- RET: `pc` is exactly the popped value; `StackUnderflow` on an empty stack (R101). -/
def execRet (s : State) : Answer :=
  match s.pop with
  | .ok (target, s') => .next (s'.setPc target)
  | .error c => .next (s.raise c)

end Sys2Proof.Machine
end

