-- ==== Sys2Proof/Machine/Draw.lean ====
section
/-! DEFINITION. Category 0xD: draw sprite (45_draw.md). -/

namespace Sys2Proof.Machine

/-- The sprite drawn on the grid of `s`: column `Vx`, row `Vy`, both read before VF is written, the collision flag
starting at 0 (R160, R164). DESIGN CHOICE, unsafe if `x` or `y` is 15 (notes/assumptions 16). -/
def State.sprite (s : State) (x y n : Nibble) : Canvas :=
  Canvas.drawSprite { pix := s.pix, hit := false } s.mem s.base n.toNat (s.reg y).toNat (s.reg x).toNat

/-- DRW Vx, Vy, n: the grid, then VF as the only register written; `AddressOutOfRange` if a row lies above 0xFFF
(R160, R166). -/
def execDrw (x y n : Nibble) (s : State) : Answer :=
  s.withBlock n.toNat ((s.setPix (s.sprite x y n).pix).setFlag (s.sprite x y n).hit).done

end Sys2Proof.Machine
end

