-- ==== Sys2Proof/Machine/Immediate.lean ====
section
/-! DEFINITION. Categories 0x6 and 0x7: immediate load and add (42_immediate.md). -/

namespace Sys2Proof.Machine

/-- LD Vx, kk (R120). -/
def execLdImm (x : Nibble) (kk : Byte) (s : State) : Answer := (s.setReg x kk).done

/-- ADD Vx, kk: 8-bit wraparound, no flag (R121). -/
def execAddImm (x : Nibble) (kk : Byte) (s : State) : Answer := (s.setReg x (s.reg x + kk)).done

end Sys2Proof.Machine
end

