-- ==== Sys2Proof/Machine/IndexJumpRandom.lean ====
section
/-! DEFINITION. Categories 0xA, 0xB and 0xC: load index, jump with offset, random (44_index_jump_random.md). -/

namespace Sys2Proof.Machine

/-- LD I, nnn (R150). -/
def execLdI (nnn : Addr) (s : State) : Answer := (s.setI (addrOperand nnn)).done

/-- JP V0, nnn: the register is always V0, the sum is not reduced modulo 4096 (R151; D7). -/
def execJpV0 (nnn : Addr) (s : State) : Answer := .next (s.setPc (addrOperand nnn + s.regWord 0))

/-- RND Vx, kk: a fresh random byte AND `kk` (R152). -/
def execRnd (x : Nibble) (kk : Byte) (s : State) : Answer := (s.drawn.setReg x (s.randomByte &&& kk)).done

end Sys2Proof.Machine
end

