-- ==== Sys2Proof/Machine/IndexMemory.lean ====
section
/-! DEFINITION. Category 0xF, second part: index arithmetic and memory transfer (48_index_memory.md). None of these
moves `I` as a side effect (D9; DESIGN CHOICE, unsafe, notes/assumptions 13). -/

namespace Sys2Proof.Machine

/-- ADD I, Vx: 16-bit wraparound, no flag (R190; D10). -/
def execAddIVx (x : Nibble) (s : State) : Answer := (s.setI (s.i + s.regWord x)).done

/-- LD F, Vx (R191). -/
def execLdFVx (x : Nibble) (s : State) : Answer := (s.setI (glyphAddr (s.reg x))).done

/-- LD B, Vx: hundreds at `I`, tens at `I + 1`, ones at `I + 2` (R192). -/
def execLdBVx (x : Nibble) (s : State) : Answer :=
  s.withBlock 3 (s.setMem (memWriteList s.mem s.base (bcdDigits (s.reg x)))).done

/-- LD [I], Vx: `V[0]` at `I`, ..., `V[x]` at `I + x` (R193). -/
def execStoreRegs (x : Nibble) (s : State) : Answer :=
  s.withBlock (blockCount x) (s.setMem (memWriteList s.mem s.base (s.regBlock x))).done

/-- LD Vx, [I]: `V[0]` from `I`, ..., `V[x]` from `I + x`; the registers above `x` stay (R194). -/
def execLoadRegs (x : Nibble) (s : State) : Answer :=
  s.withBlock (blockCount x) (s.setRegs (s.memBlock x)).done

end Sys2Proof.Machine
end

