-- ==== Sys2Proof/Machine/JumpCallSkip.lean ====
section
/-! DEFINITION. Categories 0x1 to 0x5 and 0x9: jump, call and skip (41_jump_call_skip.md). -/

namespace Sys2Proof.Machine

/-- JP nnn (R110). -/
def execJp (nnn : Addr) (s : State) : Answer := .next (s.setPc (addrOperand nnn))

/-- CALL nnn: pushes the address of the next instruction; `StackOverflow` on a full stack (R111). -/
def execCall (nnn : Addr) (s : State) : Answer :=
  match s.push (s.pc + 2) with
  | .ok s' => .next (s'.setPc (addrOperand nnn))
  | .error c => .next (s.raise c)

/-- SE Vx, kk (R112). -/
def execSeImm (x : Nibble) (kk : Byte) (s : State) : Answer := s.skipIf (s.reg x == kk)

/-- SNE Vx, kk (R113). -/
def execSneImm (x : Nibble) (kk : Byte) (s : State) : Answer := s.skipIf (s.reg x != kk)

/-- SE Vx, Vy (R114). -/
def execSeReg (x y : Nibble) (s : State) : Answer := s.skipIf (s.reg x == s.reg y)

/-- SNE Vx, Vy (R115). -/
def execSneReg (x y : Nibble) (s : State) : Answer := s.skipIf (s.reg x != s.reg y)

end Sys2Proof.Machine
end

