-- ==== Sys2Proof/Machine/KeySkip.lean ====
section
/-! DEFINITION. Category 0xE: skip on key (46_keypad_skip.md). -/

namespace Sys2Proof.Machine

/-- SKP Vx (R170). -/
def execSkp (x : Nibble) (s : State) : Answer := s.skipIf (s.pressed (s.reg x))

/-- SKNP Vx (R171). -/
def execSknp (x : Nibble) (s : State) : Answer := s.skipIf (!s.pressed (s.reg x))

end Sys2Proof.Machine
end

