-- ==== Sys2Proof/Machine/TimerKey.lean ====
section
/-! DEFINITION. Category 0xF, first part: timers and key wait (47_timer_key.md). -/

namespace Sys2Proof.Machine

/-- LD Vx, DT (R180). -/
def execLdVxDT (x : Nibble) (s : State) : Answer := (s.setReg x s.dt).done

/-- LD Vx, K: the lowest held key to `Vx`; with none held nothing is written, `pc` stays, and the step returns `WaitKey`
(R181). -/
def execLdVxK (x : Nibble) (s : State) : Answer :=
  match s.lowestKey with
  | none => .next s.wait
  | some k => (s.setReg x (BitVec.ofNat 8 k)).done

/-- LD DT, Vx (R182). -/
def execLdDTVx (x : Nibble) (s : State) : Answer := (s.setDT (s.reg x)).done

/-- LD ST, Vx (R183). -/
def execLdSTVx (x : Nibble) (s : State) : Answer := (s.setST (s.reg x)).done

end Sys2Proof.Machine
end

