-- ==== Sys2Proof/Machine/Engine.lean ====
section
/-! DEFINITION. The Execution Engine's step, "execute one instruction" (30_encoding.md R70). -/

namespace Sys2Proof.Machine

/-- `execute_one()` (R70), the checks in the order of 60_exceptions.md R209: `HALT` already set (the machine is stopped for
good, R202), the fetch, an `Unknown` word, then the instruction's own conditions. -/
def engineStep (s : State) : Host.Outcome State Fault Refusal :=
  match s.halt with
  | some c => .fault c
  | none =>
    match fetch s with
    | .error c => .next (s.beginStep.raise c)
    | .ok w =>
      match decodeWord w with
      | .error _ => .next (s.beginStep.skipUnknown w)
      | .ok i => exec i s.beginStep

/-- Where the next instruction is fetched; 0x200 if no word can be fetched at `pc`. -/
def State.fetchAddr (s : State) : Word := if rangeOk s.pc.toNat Config.insnBytes then s.pc else Config.pcReset

end Sys2Proof.Machine
end

