-- ==== Sys2Proof/Machine/Step.lean ====
section
/-! DEFINITION. One step of the whole machine (00_scope.md R7; 30_encoding.md R70): the next move of the host's schedule. -/

namespace Sys2Proof.Machine

/-- One atomic move of one agent (R7): the Timer Driver's tick, a write of the keypad latch by the host, or an engine step;
with an empty schedule it is the engine's turn. -/
def step (s : State) : Host.Outcome State Fault Refusal :=
  match s.schedule with
  | [] => engineStep s
  | .engine :: rest => engineStep (s.setSchedule rest)
  | .tick :: rest => .next (s.setSchedule rest).tick
  | .setKeys latch :: rest => .next ((s.setSchedule rest).setKeys latch)

/-- `s` with the table's word stored where the next instruction is fetched, and the next move an engine step of a machine
that is not stopped: what a fetch needs, and nothing else. -/
def State.withFetchWord (s : State) (nbits w : Nat) : State :=
  { s with
    pc := s.fetchAddr
    mem := memWriteList s.mem s.fetchAddr.toNat (tableBytes nbits w)
    halt := none
    schedule := .engine :: s.schedule }

end Sys2Proof.Machine
end

