-- ==== Sys2Proof/Safety.lean ====
section
/-! DEFINITION. The terms in which claims are made: the parts of the state and what a step leaves unchanged, whose turn it
is, what a safe run is, when a run ends, the invariants, and which cells a sprite touches. -/

namespace Sys2Proof.Machine

/-! ### Parts of the state, and frames -/

/-- The byte of memory at address `a`. -/
def State.byteAt (s : State) (a : Nat) : Byte := Memory.read s.mem a

/-- One part of the state that a step may change or leave. -/
inductive Part where
  /-- General register `V[r]`. -/
  | reg (r : Nibble)
  /-- The byte of memory at an address. -/
  | byte (a : Nat)
  /-- The parameter `GLYPH_ROM` the machine was constructed with. -/
  | glyphs
  /-- Stack slot k. -/
  | slot (k : Fin Config.stackCap)
  /-- The depth `SP`. -/
  | depth
  /-- The index register `I`. -/
  | index
  /-- The program counter. -/
  | pc
  /-- `DT`. -/
  | delay
  /-- `ST`. -/
  | sound
  /-- The whole display grid. -/
  | display
  /-- The keypad latch. -/
  | keys
  /-- The fatal latch `HALT`. -/
  | halt
  /-- The status output. -/
  | status
  /-- The report output. -/
  | report
  /-- The count of random draws. -/
  | draws
  /-- The host's schedule. -/
  | schedule
  deriving DecidableEq, Repr

/-- The part holds the same in `t` as in `s`. -/
def Part.Same (s t : State) : Part → Prop
  | .reg r => t.reg r = s.reg r
  | .byte a => t.byteAt a = s.byteAt a
  | .glyphs => t.mem.glyphs = s.mem.glyphs
  | .slot k => t.stack[k] = s.stack[k]
  | .depth => t.sp = s.sp
  | .index => t.i = s.i
  | .pc => t.pc = s.pc
  | .delay => t.dt = s.dt
  | .sound => t.st = s.st
  | .display => t.pix = s.pix
  | .keys => t.keys = s.keys
  | .halt => t.halt = s.halt
  | .status => t.status = s.status
  | .report => t.report = s.report
  | .draws => t.draws = s.draws
  | .schedule => t.schedule = s.schedule

/-- FRAME: from `s` to `t` no part but the listed ones changes: every other register, every other byte of memory, every
other stack slot, and everything else. (A listed part may also hold the same.) -/
def OnlyChanges (s t : State) (changed : List Part) : Prop := ∀ p, p ∉ changed → p.Same s t

/-- The bytes at `base`, ..., `base + count - 1`, as parts. -/
def byteBlock (base count : Nat) : List Part := (List.range count).map fun k => .byte (base + k)

/-- The registers V0, ..., Vx, as parts. -/
def regBlockParts (x : Nibble) : List Part := (List.range (x.toNat + 1)).map fun k => .reg (BitVec.ofNat 4 k)

/-- The instruction takes the fatal condition `c`: `HALT` and the status hold it, and nothing else is written, `pc` included
(60_exceptions.md R201). -/
def Raises (i : Instr) (s : State) (c : Fault) : Prop :=
  ∃ t, exec i s = .next t ∧ t.halt = some c ∧ t.status = .fatal c ∧ OnlyChanges s t [.halt, .status]

/-- The byte at `a` after the bytes `byte 0`, ..., `byte (count - 1)` have been stored at `I` and up: the stored one where the
block covers `a`, the old one elsewhere (20_memory.md R61). -/
def State.byteUnder (s : State) (count : Nat) (byte : Nat → Byte) (a : Nat) : Byte :=
  if s.i.toNat ≤ a ∧ a < s.i.toNat + count then byte (a - s.i.toNat) else s.byteAt a

/-- Digit `k` of a byte, the hundreds first (48_index_memory.md R192). -/
def bcdDigit (b : Byte) : Nat → Byte
  | 0 => BitVec.ofNat 8 (b.toNat / 100)
  | 1 => BitVec.ofNat 8 (b.toNat / 10 % 10)
  | _ => BitVec.ofNat 8 (b.toNat % 10)

/-- The general registers an instruction may write, by its rule in the files 40 to 48: its destination `Vx`; VF as a flag
(10_state.md R22); the block V0 to Vx of LD Vx,[I] (48_index_memory.md R194). -/
def writesReg : Instr → Nibble → Bool
  | .ldImm x _, r | .addImm x _, r | .ldReg x _, r | .orReg x _, r | .andReg x _, r | .xorReg x _, r | .rnd x _, r
  | .ldVxDT x, r | .ldVxK x, r => r == x
  | .addReg x _, r | .subReg x _, r | .shr x _, r | .subnReg x _, r | .shl x _, r => r == x || r == 15
  | .drw _ _ _, r => r == 15
  | .loadRegs x, r => decide (r.toNat ≤ x.toNat)
  | .cls, _ | .ret, _ | .jp _, _ | .call _, _ | .seImm _ _, _ | .sneImm _ _, _ | .seReg _ _, _ | .sneReg _ _, _ | .ldI _, _
  | .jpV0 _, _ | .skp _, _ | .sknp _, _ | .ldDTVx _, _ | .ldSTVx _, _ | .addIVx _, _ | .ldFVx _, _ | .ldBVx _, _
  | .storeRegs _, _ => false

/-- The table of 30_encoding.md R77: `pc` after an operation that takes no fatal condition, from the state before it. -/
def pcAfter (s : State) : Instr → Word
  | .jp nnn => nnn.setWidth 16
  | .call nnn => nnn.setWidth 16
  | .ret => s.stack.toList.getD (s.sp.val - 1) 0
  | .jpV0 nnn => nnn.setWidth 16 + (s.reg 0).setWidth 16
  | .seImm x kk => if s.reg x = kk then s.pc + 4 else s.pc + 2
  | .sneImm x kk => if s.reg x ≠ kk then s.pc + 4 else s.pc + 2
  | .seReg x y => if s.reg x = s.reg y then s.pc + 4 else s.pc + 2
  | .sneReg x y => if s.reg x ≠ s.reg y then s.pc + 4 else s.pc + 2
  | .skp x => if s.keys.getLsbD (s.reg x).toNat then s.pc + 4 else s.pc + 2
  | .sknp x => if s.keys.getLsbD (s.reg x).toNat then s.pc + 2 else s.pc + 4
  | .ldVxK _ => if s.keys = 0 then s.pc else s.pc + 2
  | .cls | .ldImm _ _ | .addImm _ _ | .ldReg _ _ | .orReg _ _ | .andReg _ _ | .xorReg _ _ | .addReg _ _ | .subReg _ _
  | .shr _ _ | .subnReg _ _ | .shl _ _ | .ldI _ | .rnd _ _ | .drw _ _ _ | .ldVxDT _ | .ldDTVx _ | .ldSTVx _ | .addIVx _
  | .ldFVx _ | .ldBVx _ | .storeRegs _ | .loadRegs _ => s.pc + 2

/-! ### Whose turn it is (00_scope.md R7) -/

/-- It is the engine's turn; `rest` is the schedule after it. -/
def State.EngineTurn (s : State) (rest : List Move) : Prop :=
  s.schedule = .engine :: rest ∨ (s.schedule = [] ∧ rest = [])

/-- The state in which the engine's step executes the fetched word: the move is taken off the schedule, the status is `Ok`
and there is no report. -/
def State.begun (s : State) (rest : List Move) : State := (s.setSchedule rest).beginStep

/-- The word at `pc`, high byte first (20_memory.md R55). -/
def State.wordAtPc (s : State) : Word := wordOfBytes (s.byteAt s.pc.toNat) (s.byteAt (s.pc.toNat + 1))

/-- The two bytes the fetch reads exist: `pc` is at most 0xFFE (R55). -/
def State.Fetchable (s : State) : Prop := s.pc.toNat ≤ 0xFFE

/-! ### Safe runs and the end of a run (60_exceptions.md R202; 70_reset_and_hazards.md R247) -/

/-- No fatal condition has been raised. A state with `HALT` set is a faulted state, never a final one (R202). -/
def State.Running (s : State) : Prop := s.halt = none

/-- The `k` moves from `s` raise no fatal condition: they give a state, and it is running. -/
def RunsSafely (s : State) (k : Nat) : Prop := ∃ t, Host.Core.run core k s = .next t ∧ t.Running

/-- The end of a run as R247 offers to define it: the instruction at `pc` jumps to itself, and no fatal condition was
raised. The machine says nothing of termination (D24). -/
def State.Ended (s : State) : Prop :=
  s.Running ∧ s.Fetchable ∧ ∃ nnn, decodeWord s.wordAtPc = .ok (.jp nnn) ∧ addrOperand nnn = s.pc

/-! ### Invariants -/

/-- Memory is in its canonical form. -/
def State.MemoryCanonical (s : State) : Prop := Memory.wf s.mem = true

/-- `pc` never exceeds 0x10FE, and no live return address exceeds 0x1000 (10_state.md R26). -/
def State.PcBounded (s : State) : Prop :=
  s.pc.toNat ≤ 0x10FE ∧ ∀ k : Fin Config.stackCap, k.val < s.sp.val → (s.stack[k]).toNat ≤ 0x1000

/-- The status output says what the latch says: a fatal condition is on both or on neither. -/
def State.StatusAgrees (s : State) : Prop := ∀ c, s.halt = some c ↔ s.status = .fatal c

/-! ### Sprites (45_draw.md) -/

/-- Two pairs of coordinates name the same cell of the grid (R162). -/
abbrev SameCell (p q : Nat × Nat) : Prop :=
  p.1 % Config.dispRows = q.1 % Config.dispRows ∧ p.2 % Config.dispCols = q.2 % Config.dispCols

/-- The sprite bit (row, col) in the state `s`: bit `7 - col` of the byte at `I + row` (R161). -/
def State.spriteBit (s : State) (row col : Nat) : Bool := (s.byteAt (s.base + row)).getLsbD (7 - col)

/-- A 1 bit of the sprite of DRW Vx, Vy, n lands on the cell (r, c) (R160, R162). -/
def State.spriteCovers (s : State) (x y n : Nibble) (r c : Nat) : Prop :=
  ∃ row < n.toNat, ∃ col < 8,
    s.spriteBit row col = true ∧ SameCell ((s.reg y).toNat + row, (s.reg x).toNat + col) (r, c)

/-- A 1 bit of the sprite of DRW Vx, Vy, n lands on a cell that holds 1 (R163). -/
def State.spriteCollides (s : State) (x y n : Nibble) : Prop :=
  ∃ row < n.toNat, ∃ col < 8,
    s.spriteBit row col = true ∧ s.pixel ((s.reg y).toNat + row) ((s.reg x).toNat + col) = true

end Sys2Proof.Machine
end

