-- ==== Sys2Proof/Certificates/Slice0/Obligations.lean ====
section
/-! DEFINITION. The statements for the provers. Each docstring names the rule of spec/ it formalises. `Part`, `OnlyChanges`,
`Raises` and the other terms are in Sys2Proof/Safety.lean. Where a statement rests on a choice the spec marks as its own
(a decision D<n> of 92_eei_decisions.md) or on a choice of the model (a log entry), the docstring says so. -/

open Sys2Proof Sys2Proof.Machine

/-! ### Encoding -/

/-- Words written out from the rows of the opcode map (30_encoding.md R76) decode to the instructions they stand for.
60 05 and 70 03 are the document's own; the other patterns are the spec's decision D1. -/
def Obligations.KnownWordsDecode : Prop :=
  decode [0x60, 0x05] = .ok (.ldImm 0 0x05, []) ∧ decode [0x70, 0x03] = .ok (.addImm 0 0x03, []) ∧
  decode [0x00, 0xE0] = .ok (.cls, []) ∧ decode [0x00, 0xEE] = .ok (.ret, []) ∧
  decode [0x23, 0x45] = .ok (.call 0x345, []) ∧ decode [0x8A, 0xB7] = .ok (.subnReg 0xA 0xB, []) ∧
  decode [0xD1, 0x25] = .ok (.drw 1 2 5, []) ∧ decode [0xE4, 0xA1] = .ok (.sknp 4, []) ∧
  decode [0xFA, 0x65] = .ok (.loadRegs 0xA, []) ∧
  decode [0x51, 0x21] = .error (.unknown 0x5121) ∧ decode [0x12] = .error .truncated

/-- Decode and encode agree for every instruction and every operand, and the decoder leaves the bytes after the
instruction (R71, R75, R84; the patterns are decision D1). -/
def Obligations.DecodeOfEncodeIsTheInstruction : Prop :=
  ∀ (i : Instr) (rest : List Byte), decode (encodeBytes i ++ rest) = .ok (i, rest)

/-- A word that is an instruction is that instruction's encoding: no bit of it is dropped, the ignored field `y` of the
shifts included (R75, R80, R84; the patterns are decision D1). -/
def Obligations.EncodeOfDecodeIsTheWord : Prop :=
  ∀ (w : Word) (i : Instr), decodeWord w = .ok i → encode i = w

/-- The decoder is total and follows the opcode map: every word decodes to an instruction whose row matches it, or no row
matches it and it is `Unknown` (R75, R76, R79; the patterns are decision D1). -/
def Obligations.DecoderFollowsTheOpcodeMap : Prop :=
  ∀ w : Word,
    (∃ i, decodeWord w = .ok i ∧ (i.rowMatch, i.rowMask) ∈ opcodeRows ∧ w &&& i.rowMask = i.rowMatch) ∨
    (decodeWord w = .error (.unknown w) ∧ ∀ row ∈ opcodeRows, w &&& row.2 ≠ row.1)

/-! ### Reset and the loader -/

/-- What construction leaves, for every value of the parameter `GLYPH_ROM` (10_state.md R24; decision D11): every value of the
table of R36 (its rows for the keypad latch and for `HALT` are decisions D20 and D5). `State.reset` is the machine constructed
with the default glyph set (notes/assumptions 9). -/
def Obligations.ResetLeavesTheTabledValues : Prop :=
  (∀ rom : Config.GlyphRom, let s := State.construct rom
    s.mem.glyphs = rom ∧
    (∀ a < 0x050, s.byteAt a = 0) ∧ (∀ k : Fin 80, s.byteAt (0x050 + k) = rom[k]) ∧ (∀ a < 0x1000, 0x0A0 ≤ a → s.byteAt a = 0) ∧
    (∀ r, s.reg r = 0) ∧ s.i = 0 ∧ s.pc = 0x200 ∧ s.sp = 0 ∧ (∀ k : Fin 16, s.stack[k] = 0) ∧ s.dt = 0 ∧ s.st = 0 ∧
    (∀ r < 32, ∀ c < 64, s.pixel r c = false) ∧ (∀ k < 16, s.keys.getLsbD k = false) ∧ s.halt = none) ∧
  State.reset = State.construct glyphRom

/-- The loader's contract: an image of at most 3584 bytes goes to 0x200 and up, byte `k` to 0x200 + k, and nothing else
changes; a longer one is refused (70_reset_and_hazards.md R245, whose bound 3584 the spec marks as derived). -/
def Obligations.LoaderPlacesTheImage : Prop :=
  ∀ (s : State) (image : List Byte),
    (image.length ≤ 3584 → ∃ t, s.load image = some t ∧
      (∀ k < image.length, t.byteAt (0x200 + k) = image.getD k 0) ∧
      OnlyChanges s t (byteBlock 0x200 image.length)) ∧
    (3584 < image.length → s.load image = none)

/-! ### The step -/

/-- A STEP RUNS THE DECODED INSTRUCTION: on the engine's turn, in a machine that is not stopped, with `pc` at most 0xFFE, a
step is `exec` of the instruction decoded from the two bytes at `pc`, in the state whose status is `Ok`, whose report is
empty and whose schedule is one move shorter (R70; the schedule is the model's own, notes/assumptions 5, and the two ports
notes/assumptions 4). -/
def Obligations.StepRunsTheDecodedInstruction : Prop :=
  ∀ (s : State) (rest : List Move) (i : Instr),
    s.EngineTurn rest → s.Running → s.Fetchable → decodeWord s.wordAtPc = .ok i → step s = exec i (s.begun rest)

/-- A word no row of the opcode map matches is a no-op that advances `pc` by 2, modulo 65536, and is reported with its
address; the step returns `Ok` and nothing else changes (R78; which words those are rests on decisions D1 and D2, the report's
content on decision D16; the two ports are notes/assumptions 4 and the schedule, one move shorter, is notes/assumptions 5). -/
def Obligations.UnknownWordsAreReportedAndSkipped : Prop :=
  ∀ (s : State) (rest : List Move),
    s.EngineTurn rest → s.Running → s.Fetchable → (∀ row ∈ opcodeRows, s.wordAtPc &&& row.2 ≠ row.1) →
    ∃ t, step s = .next t ∧ t.pc.toNat = (s.pc.toNat + 2) % 65536 ∧ t.status = .ok ∧
      t.report = some { word := s.wordAtPc, addr := s.pc } ∧ t.schedule = rest ∧
      OnlyChanges s t [.pc, .status, .report, .schedule]

/-- A fetch with `pc` above 0xFFE takes `AddressOutOfRange` and executes nothing (20_memory.md R55; decisions D3, D4 and D5;
that the report port is emptied is notes/assumptions 4, and the schedule, one move shorter, is notes/assumptions 5). -/
def Obligations.FetchPastTheEndIsFatal : Prop :=
  ∀ (s : State) (rest : List Move),
    s.EngineTurn rest → s.Running → 0xFFE < s.pc.toNat →
    ∃ t, step s = .next t ∧ t.halt = some .addressOutOfRange ∧ t.status = .fatal .addressOutOfRange ∧ t.report = none ∧
      t.schedule = rest ∧ OnlyChanges s t [.halt, .status, .report, .schedule]

/-- With `HALT` set the engine's step ends in that fatal condition, whatever stands at `pc` (60_exceptions.md R202; decision
D5; notes/assumptions 6 says how the model ends such a step). -/
def Obligations.StoppedEngineStaysStopped : Prop :=
  ∀ (s : State) (rest : List Move) (c : Fault), s.EngineTurn rest → s.halt = some c → step s = .fault c

/-- Every step answers a next state, but for an engine step of a machine whose `HALT` is set (R200, R202; decision D5). That
such a step ends in the fault of that name is the model's form of it (notes/assumptions 6), and whose turn it is stands in
the schedule (notes/assumptions 5). -/
def Obligations.OnlyAStoppedEngineFaults : Prop :=
  ∀ s : State, (∃ t, step s = .next t) ∨ ∃ rest c, s.EngineTurn rest ∧ s.halt = some c ∧ step s = .fault c

/-- `tick_timers`: each timer is one less, 0 stays 0, and it reads and writes nothing else; it is a separate move, made
whether or not the machine is stopped or waiting (60_exceptions.md R214; for the stopped machine decision D6). That the two
ports keep the last engine step's outputs is notes/assumptions 4, and the schedule, one move shorter, is
notes/assumptions 5. -/
def Obligations.TickCountsBothTimersDown : Prop :=
  ∀ (s : State) (rest : List Move), s.schedule = .tick :: rest →
    ∃ t, step s = .next t ∧ t.dt.toNat = s.dt.toNat - 1 ∧ t.st.toNat = s.st.toNat - 1 ∧ t.schedule = rest ∧
      OnlyChanges s t [.delay, .sound, .schedule]

/-- The host may change any bit of the keypad latch between two steps, and nothing else (10_state.md R31, R219; decisions
D20 and D23). That the two ports keep the last engine step's outputs is notes/assumptions 4, and the schedule, one move
shorter, is notes/assumptions 5. -/
def Obligations.HostWritesOnlyTheLatch : Prop :=
  ∀ (s : State) (rest : List Move) (latch : BitVec 16), s.schedule = .setKeys latch :: rest →
    ∃ t, step s = .next t ∧ t.keys = latch ∧ t.schedule = rest ∧ OnlyChanges s t [.keys, .schedule]

/-- What a step hands back: on the engine's turn of a running machine the status is `Fatal(c)` exactly if the step raised
`c`, and `WaitKey` exactly if it executed LD Vx,K with no key held; otherwise `Ok` (60_exceptions.md R200; the form of
`WaitKey` is decision D15; that the status stands in the state is notes/assumptions 4). -/
def Obligations.StatusSaysHowTheStepEnded : Prop :=
  ∀ (s t : State) (rest : List Move), s.EngineTurn rest → s.Running → step s = .next t →
    (∀ c, t.status = .fatal c ↔ t.halt = some c) ∧
    (t.status = .waitKey ↔
      s.Fetchable ∧ (∃ x, decodeWord s.wordAtPc = .ok (.ldVxK x)) ∧ ∀ k < 16, s.keys.getLsbD k = false)

/-! ### Category 0x0, jumps, calls, skips -/

/-- CLS (40_display_return.md R100): every cell is 0, `pc` advances by 2, nothing else changes. -/
def Obligations.ClsClearsTheGrid : Prop :=
  ∀ s : State, ∃ t, exec .cls s = .next t ∧ (∀ r < 32, ∀ c < 64, t.pixel r c = false) ∧ t.pc = s.pc + 2 ∧
    OnlyChanges s t [.display, .pc]

/-- RET (R101): `pc` is exactly the popped value, the depth is one less and the slot keeps its value; with an empty stack
it takes `StackUnderflow`, and nothing is written (R201; decisions D4 and D5; the slot layout is decision D14). -/
def Obligations.RetPopsTheReturnAddress : Prop :=
  ∀ s : State,
    (s.sp.val = 0 → Raises .ret s .stackUnderflow) ∧
    (∀ k : Fin 16, s.sp.val = k.val + 1 →
      ∃ t, exec .ret s = .next t ∧ t.pc = s.stack[k] ∧ t.sp.val = k.val ∧ OnlyChanges s t [.pc, .depth])

/-- JP nnn (41_jump_call_skip.md R110). -/
def Obligations.JpSetsPc : Prop :=
  ∀ (nnn : Addr) (s : State), ∃ t, exec (.jp nnn) s = .next t ∧ t.pc.toNat = nnn.toNat ∧ OnlyChanges s t [.pc]

/-- CALL nnn (R111): the address of the next instruction goes to the slot at the old depth, the depth is one more, `pc` is
the target; with 16 addresses on the stack it takes `StackOverflow`, and nothing is written (R201; decisions D4 and D5;
the slot layout is decision D14). -/
def Obligations.CallPushesTheReturnAddress : Prop :=
  ∀ (nnn : Addr) (s : State),
    (s.sp.val = 16 → Raises (.call nnn) s .stackOverflow) ∧
    (∀ k : Fin 16, s.sp.val = k.val →
      ∃ t, exec (.call nnn) s = .next t ∧ (t.stack[k]).toNat = (s.pc.toNat + 2) % 65536 ∧ t.sp.val = k.val + 1 ∧
        t.pc.toNat = nnn.toNat ∧ OnlyChanges s t [.slot k, .depth, .pc])

/-- "Executing a call instruction then its matching return leaves the program counter exactly at the instruction following
the call, and stack depth unchanged" (R101, R111; the slot layout is decision D14). -/
def Obligations.CallThenRetResumesAfterTheCall : Prop :=
  ∀ (nnn : Addr) (s : State) (k : Fin 16), s.sp.val = k.val →
    ∃ t u, exec (.call nnn) s = .next t ∧ exec .ret t = .next u ∧ u.pc = s.pc + 2 ∧ u.sp = s.sp ∧
      OnlyChanges s u [.slot k, .pc]

/-- The four compare-and-skip instructions (R112, R113, R114, R115): `pc + 4` if the condition holds, else `pc + 2`, and
nothing else changes. -/
def Obligations.CompareSkipsAdvanceByFourOrTwo : Prop :=
  ∀ (x y : Nibble) (kk : Byte) (s : State),
    (∃ t, exec (.seImm x kk) s = .next t ∧ t.pc = s.pc + (if s.reg x = kk then 4 else 2) ∧ OnlyChanges s t [.pc]) ∧
    (∃ t, exec (.sneImm x kk) s = .next t ∧ t.pc = s.pc + (if s.reg x = kk then 2 else 4) ∧ OnlyChanges s t [.pc]) ∧
    (∃ t, exec (.seReg x y) s = .next t ∧ t.pc = s.pc + (if s.reg x = s.reg y then 4 else 2) ∧ OnlyChanges s t [.pc]) ∧
    (∃ t, exec (.sneReg x y) s = .next t ∧ t.pc = s.pc + (if s.reg x = s.reg y then 2 else 4) ∧ OnlyChanges s t [.pc])

/-- SKP and SKNP (46_keypad_skip.md R170, R171, R172): the key is indexed by the whole byte, 16 and more is never pressed;
a skip is `pc + 4`, otherwise `pc + 2`; nothing else changes. -/
def Obligations.KeySkipsTestTheLatch : Prop :=
  ∀ (x : Nibble) (s : State),
    (∃ t, exec (.skp x) s = .next t ∧
      ((s.reg x).toNat ≤ 15 ∧ s.keys.getLsbD (s.reg x).toNat = true → t.pc = s.pc + 4) ∧
      ((s.reg x).toNat ≤ 15 ∧ s.keys.getLsbD (s.reg x).toNat = false → t.pc = s.pc + 2) ∧
      (16 ≤ (s.reg x).toNat → t.pc = s.pc + 2) ∧ OnlyChanges s t [.pc]) ∧
    (∃ t, exec (.sknp x) s = .next t ∧
      ((s.reg x).toNat ≤ 15 ∧ s.keys.getLsbD (s.reg x).toNat = true → t.pc = s.pc + 2) ∧
      ((s.reg x).toNat ≤ 15 ∧ s.keys.getLsbD (s.reg x).toNat = false → t.pc = s.pc + 4) ∧
      (16 ≤ (s.reg x).toNat → t.pc = s.pc + 4) ∧ OnlyChanges s t [.pc])

/-- JP V0, nnn (44_index_jump_random.md R151): the sum of `nnn` and V0, not reduced modulo 4096 (decision D7). -/
def Obligations.JpV0AddsTheOffset : Prop :=
  ∀ (nnn : Addr) (s : State),
    ∃ t, exec (.jpV0 nnn) s = .next t ∧ t.pc.toNat = nnn.toNat + (s.reg 0).toNat ∧ OnlyChanges s t [.pc]

/-! ### Immediates and the ALU -/

/-- LD Vx, kk (42_immediate.md R120); `x = 15` included. -/
def Obligations.LdImmLoadsTheByte : Prop :=
  ∀ (x : Nibble) (kk : Byte) (s : State),
    ∃ t, exec (.ldImm x kk) s = .next t ∧ t.reg x = kk ∧ t.pc = s.pc + 2 ∧ OnlyChanges s t [.reg x, .pc]

/-- ADD Vx, kk (R121): 8-bit wraparound; VF is not written unless it is `Vx`. -/
def Obligations.AddImmWrapsWithoutAFlag : Prop :=
  ∀ (x : Nibble) (kk : Byte) (s : State),
    ∃ t, exec (.addImm x kk) s = .next t ∧ (t.reg x).toNat = ((s.reg x).toNat + kk.toNat) % 256 ∧ t.pc = s.pc + 2 ∧
      OnlyChanges s t [.reg x, .pc]

/-- LD Vx, Vy (43_alu.md R130); that VF is left alone unless it is `Vx` is decision D10 (notes/assumptions 13). -/
def Obligations.LdRegCopiesVy : Prop :=
  ∀ (x y : Nibble) (s : State),
    ∃ t, exec (.ldReg x y) s = .next t ∧ t.reg x = s.reg y ∧ t.pc = s.pc + 2 ∧ OnlyChanges s t [.reg x, .pc]

/-- OR, AND, XOR (R131, R132, R133), bit by bit; that VF is left alone unless it is `Vx` is decision D10. -/
def Obligations.LogicOpsWorkBitwiseWithoutAFlag : Prop :=
  ∀ (x y : Nibble) (s : State),
    (∃ t, exec (.orReg x y) s = .next t ∧
      (∀ b < 8, (t.reg x).getLsbD b = ((s.reg x).getLsbD b || (s.reg y).getLsbD b)) ∧ t.pc = s.pc + 2 ∧
      OnlyChanges s t [.reg x, .pc]) ∧
    (∃ t, exec (.andReg x y) s = .next t ∧
      (∀ b < 8, (t.reg x).getLsbD b = ((s.reg x).getLsbD b && (s.reg y).getLsbD b)) ∧ t.pc = s.pc + 2 ∧
      OnlyChanges s t [.reg x, .pc]) ∧
    (∃ t, exec (.xorReg x y) s = .next t ∧
      (∀ b < 8, (t.reg x).getLsbD b = ((s.reg x).getLsbD b ^^ (s.reg y).getLsbD b)) ∧ t.pc = s.pc + 2 ∧
      OnlyChanges s t [.reg x, .pc])

/-- ADD Vx, Vy (R134): the sum modulo 256 and the carry; with `x = 15` VF is the carry and the sum is discarded. -/
def Obligations.AddRegSetsTheCarry : Prop :=
  ∀ (x y : Nibble) (s : State),
    ∃ t, exec (.addReg x y) s = .next t ∧
      (x ≠ 15 → (t.reg x).toNat = ((s.reg x).toNat + (s.reg y).toNat) % 256) ∧
      (t.reg 15).toNat = (if 255 < (s.reg x).toNat + (s.reg y).toNat then 1 else 0) ∧ t.pc = s.pc + 2 ∧
      OnlyChanges s t [.reg x, .reg 15, .pc]

/-- SUB Vx, Vy (R135): the wrapping difference and "no borrow"; with `x = 15` VF is the flag. -/
def Obligations.SubRegSetsNoBorrow : Prop :=
  ∀ (x y : Nibble) (s : State),
    ∃ t, exec (.subReg x y) s = .next t ∧
      (x ≠ 15 → (t.reg x).toNat = ((s.reg x).toNat + 256 - (s.reg y).toNat) % 256) ∧
      (t.reg 15).toNat = (if (s.reg y).toNat ≤ (s.reg x).toNat then 1 else 0) ∧ t.pc = s.pc + 2 ∧
      OnlyChanges s t [.reg x, .reg 15, .pc]

/-- SUBN Vx, Vy (R137): `Vy - Vx` goes to `Vx`, with its "no borrow"; with `x = 15` VF is the flag. -/
def Obligations.SubnRegSetsNoBorrow : Prop :=
  ∀ (x y : Nibble) (s : State),
    ∃ t, exec (.subnReg x y) s = .next t ∧
      (x ≠ 15 → (t.reg x).toNat = ((s.reg y).toNat + 256 - (s.reg x).toNat) % 256) ∧
      (t.reg 15).toNat = (if (s.reg x).toNat ≤ (s.reg y).toNat then 1 else 0) ∧ t.pc = s.pc + 2 ∧
      OnlyChanges s t [.reg x, .reg 15, .pc]

/-- SHR Vx (R136): one place to the right, VF the old bit 0; the field `y` changes nothing (R80). -/
def Obligations.ShrShiftsOutBitZero : Prop :=
  ∀ (x y : Nibble) (s : State),
    (∃ t, exec (.shr x y) s = .next t ∧ (x ≠ 15 → (t.reg x).toNat = (s.reg x).toNat / 2) ∧
      (t.reg 15).toNat = (s.reg x).toNat % 2 ∧ t.pc = s.pc + 2 ∧ OnlyChanges s t [.reg x, .reg 15, .pc]) ∧
    ∀ y', exec (.shr x y') s = exec (.shr x y) s

/-- SHL Vx (R138): one place to the left, VF the old bit 7; the field `y` changes nothing (R80). -/
def Obligations.ShlShiftsOutBitSeven : Prop :=
  ∀ (x y : Nibble) (s : State),
    (∃ t, exec (.shl x y) s = .next t ∧ (x ≠ 15 → (t.reg x).toNat = (s.reg x).toNat * 2 % 256) ∧
      (t.reg 15).toNat = (s.reg x).toNat / 128 ∧ t.pc = s.pc + 2 ∧ OnlyChanges s t [.reg x, .reg 15, .pc]) ∧
    ∀ y', exec (.shl x y') s = exec (.shl x y) s

/-! ### Index, random, timers, keys -/

/-- LD I, nnn (R150). -/
def Obligations.LdISetsTheIndex : Prop :=
  ∀ (nnn : Addr) (s : State),
    ∃ t, exec (.ldI nnn) s = .next t ∧ t.i.toNat = nnn.toNat ∧ t.pc = s.pc + 2 ∧ OnlyChanges s t [.index, .pc]

/-- ADD I, Vx (48_index_memory.md R190): 16-bit wraparound; that VF is left alone is decision D10. -/
def Obligations.AddIWrapsAtSixteenBits : Prop :=
  ∀ (x : Nibble) (s : State),
    ∃ t, exec (.addIVx x) s = .next t ∧ t.i.toNat = (s.i.toNat + (s.reg x).toNat) % 65536 ∧ t.pc = s.pc + 2 ∧
      OnlyChanges s t [.index, .pc]

/-- LD F, Vx (R191): the glyph of the low nibble; the base 0x050 is decision D11. -/
def Obligations.LdFAddressesTheGlyph : Prop :=
  ∀ (x : Nibble) (s : State),
    ∃ t, exec (.ldFVx x) s = .next t ∧ t.i.toNat = 0x050 + 5 * ((s.reg x).toNat % 16) ∧ t.pc = s.pc + 2 ∧
      OnlyChanges s t [.index, .pc]

/-- LD F, Vx leaves `I` on the five rows of the glyph of the low nibble in the machine's `GLYPH_ROM`, whichever that is, as
long as the region holds it, as it does after construction and until a store into it (10_state.md R24, R191; decisions D11 and
D12). -/
def Obligations.LdFFindsTheGlyphOfTheRom : Prop :=
  ∀ (rom : Config.GlyphRom) (x : Nibble) (s : State), (∀ k : Fin 80, s.byteAt (0x050 + k) = rom[k]) →
    ∃ t, exec (.ldFVx x) s = .next t ∧
      ∀ (k : Fin 80), ∀ row < 5, k.val = 5 * ((s.reg x).toNat % 16) + row → t.byteAt (t.i.toNat + row) = rom[k]

/-- RND Vx, kk (R152; decision D13): `Vx` is the free random byte of this draw AND `kk`, so every bit clear in `kk` is clear
in `Vx`; the next draw is a fresh one (the counter is the model's own, notes/assumptions 3). -/
def Obligations.RndMasksAFreshRandomByte : Prop :=
  ∀ (x : Nibble) (kk : Byte) (s : State),
    ∃ t, exec (.rnd x kk) s = .next t ∧ t.reg x = Config.randomByte s.draws &&& kk ∧
      (∀ b, kk.getLsbD b = false → (t.reg x).getLsbD b = false) ∧ t.draws = s.draws + 1 ∧ t.pc = s.pc + 2 ∧
      OnlyChanges s t [.reg x, .draws, .pc]

/-- LD Vx, DT; LD DT, Vx; LD ST, Vx (47_timer_key.md R180, R182, R183): a copy, and no timer is decremented. -/
def Obligations.TimerMovesCopy : Prop :=
  ∀ (x : Nibble) (s : State),
    (∃ t, exec (.ldVxDT x) s = .next t ∧ t.reg x = s.dt ∧ t.pc = s.pc + 2 ∧ OnlyChanges s t [.reg x, .pc]) ∧
    (∃ t, exec (.ldDTVx x) s = .next t ∧ t.dt = s.reg x ∧ t.pc = s.pc + 2 ∧ OnlyChanges s t [.delay, .pc]) ∧
    (∃ t, exec (.ldSTVx x) s = .next t ∧ t.st = s.reg x ∧ t.toneActive = decide (s.reg x ≠ 0) ∧ t.pc = s.pc + 2 ∧
      OnlyChanges s t [.sound, .pc])

/-- LD Vx, K (R181): the lowest held key goes to `Vx` and `pc` advances by 2; with no key held the status is `WaitKey` and
nothing else changes, `pc` included (the form of `WaitKey` is decision D15). -/
def Obligations.KeyWaitTakesTheLowestKey : Prop :=
  ∀ (x : Nibble) (s : State),
    (∀ k < 16, s.keys.getLsbD k = true → (∀ j < k, s.keys.getLsbD j = false) →
      ∃ t, exec (.ldVxK x) s = .next t ∧ (t.reg x).toNat = k ∧ t.pc = s.pc + 2 ∧ OnlyChanges s t [.reg x, .pc]) ∧
    ((∀ k < 16, s.keys.getLsbD k = false) →
      ∃ t, exec (.ldVxK x) s = .next t ∧ t.status = .waitKey ∧ OnlyChanges s t [.status])

/-! ### Draw -/

/-- DRW Vx, Vy, n (45_draw.md R160): a cell a 1 bit of the sprite lands on is inverted, every other cell is as before, VF is
1 exactly if such a cell held 1 before, `pc` advances by 2 and nothing else changes; with `n > 0` and a row above 0xFFF it
takes `AddressOutOfRange` and nothing is written (bit 7 is column 0 by decision D22, the operands are read before VF is
written by decision D21, the fatal condition is decisions D3, D4 and D5). -/
def Obligations.DrwXorsTheSprite : Prop :=
  ∀ (x y n : Nibble) (s : State),
    (n.toNat = 0 ∨ s.i.toNat + n.toNat - 1 ≤ 0xFFF →
      ∃ t, exec (.drw x y n) s = .next t ∧
        (∀ r < 32, ∀ c < 64,
          (s.spriteCovers x y n r c → t.pixel r c = !s.pixel r c) ∧
          (¬ s.spriteCovers x y n r c → t.pixel r c = s.pixel r c)) ∧
        (s.spriteCollides x y n → t.reg 15 = 1) ∧ (¬ s.spriteCollides x y n → t.reg 15 = 0) ∧ t.pc = s.pc + 2 ∧
        OnlyChanges s t [.display, .reg 15, .pc]) ∧
    (n.toNat > 0 ∧ s.i.toNat + n.toNat - 1 > 0xFFF → Raises (.drw x y n) s .addressOutOfRange)

/-- Drawing the same sprite twice at the same place restores the grid, and the second draw's flag says whether a 1 bit of
the sprite lies over a cell that was 0 before the first (R165 (a) and (b), conflict C6). With `x` or `y` 15 the first draw
moves the place, its flag being a coordinate of the second (decision D21). -/
def Obligations.DrwTwiceRestoresTheGrid : Prop :=
  ∀ (x y n : Nibble) (s : State), x ≠ 15 → y ≠ 15 → n.toNat = 0 ∨ s.i.toNat + n.toNat - 1 ≤ 0xFFF →
    ∃ t u, exec (.drw x y n) s = .next t ∧ exec (.drw x y n) t = .next u ∧
      (∀ r < 32, ∀ c < 64, u.pixel r c = s.pixel r c) ∧
      (u.reg 15 = 1 ↔ ∃ r < 32, ∃ c < 64, s.spriteCovers x y n r c ∧ s.pixel r c = false)

/-! ### Memory transfer -/

/-- LD B, Vx (48_index_memory.md R192): the hundreds, tens and ones digits at `I`, `I + 1`, `I + 2`; above 0xFFF it takes
`AddressOutOfRange` and nothing is written (decisions D3, D4 and D5). -/
def Obligations.BcdStoresThreeDigits : Prop :=
  ∀ (x : Nibble) (s : State),
    (s.i.toNat + 2 ≤ 0xFFF →
      ∃ t, exec (.ldBVx x) s = .next t ∧ (t.byteAt s.i.toNat).toNat = (s.reg x).toNat / 100 ∧
        (t.byteAt (s.i.toNat + 1)).toNat = (s.reg x).toNat / 10 % 10 ∧
        (t.byteAt (s.i.toNat + 2)).toNat = (s.reg x).toNat % 10 ∧ t.pc = s.pc + 2 ∧
        OnlyChanges s t (.pc :: byteBlock s.i.toNat 3)) ∧
    (s.i.toNat + 2 > 0xFFF → Raises (.ldBVx x) s .addressOutOfRange)

/-- LD [I], Vx (R193): V0 to Vx at `I` and up, and `I` is unchanged (decision D9); above 0xFFF it takes
`AddressOutOfRange` and nothing is written (decisions D3, D4 and D5). -/
def Obligations.StoreRegsDumpsTheBlock : Prop :=
  ∀ (x : Nibble) (s : State),
    (s.i.toNat + x.toNat ≤ 0xFFF →
      ∃ t, exec (.storeRegs x) s = .next t ∧
        (∀ k : Nibble, k.toNat ≤ x.toNat → t.byteAt (s.i.toNat + k.toNat) = s.reg k) ∧ t.pc = s.pc + 2 ∧
        OnlyChanges s t (.pc :: byteBlock s.i.toNat (x.toNat + 1))) ∧
    (s.i.toNat + x.toNat > 0xFFF → Raises (.storeRegs x) s .addressOutOfRange)

/-- LD Vx, [I] (R194): V0 to Vx from `I` and up, the registers above `Vx` and `I` unchanged (decision D9); above 0xFFF it
takes `AddressOutOfRange` and nothing is written (decisions D3, D4 and D5). -/
def Obligations.LoadRegsFillsTheBlock : Prop :=
  ∀ (x : Nibble) (s : State),
    (s.i.toNat + x.toNat ≤ 0xFFF →
      ∃ t, exec (.loadRegs x) s = .next t ∧
        (∀ k : Nibble, k.toNat ≤ x.toNat → t.reg k = s.byteAt (s.i.toNat + k.toNat)) ∧ t.pc = s.pc + 2 ∧
        OnlyChanges s t (.pc :: regBlockParts x)) ∧
    (s.i.toNat + x.toNat > 0xFFF → Raises (.loadRegs x) s .addressOutOfRange)

/-- A block stored and loaded again comes back, whatever the registers held in between (R193, R194; decision D9). -/
def Obligations.LoadAfterStoreRestoresTheBlock : Prop :=
  ∀ (x : Nibble) (s : State) (between : Vector Byte 16), s.i.toNat + x.toNat ≤ 0xFFF →
    ∃ t u, exec (.storeRegs x) s = .next t ∧ exec (.loadRegs x) { t with v := between } = .next u ∧
      ∀ k : Nibble, k.toNat ≤ x.toNat → u.reg k = s.reg k

/-- A store by LD [I],Vx or by LD B,Vx is seen by the fetch of the very next instruction (20_memory.md R61, R63): wherever the
stored block lies, that fetch reads the stored bytes where the block covers the word, and the old bytes elsewhere. So with
`I = pc + 2` and `x ≥ 1` the next word is V0 and V1 of LD [I],Vx, and the hundreds and tens digits of LD B,Vx. -/
def Obligations.StoredCodeIsFetchedNext : Prop :=
  ∀ (x : Nibble) (s : State), s.pc.toNat + 2 ≤ 0xFFE →
    (s.i.toNat + x.toNat ≤ 0xFFF →
      ∃ t, exec (.storeRegs x) s = .next t ∧
        fetch t = .ok (wordOfBytes (s.byteUnder (x.toNat + 1) (fun k => s.reg (BitVec.ofNat 4 k)) (s.pc.toNat + 2))
          (s.byteUnder (x.toNat + 1) (fun k => s.reg (BitVec.ofNat 4 k)) (s.pc.toNat + 3))) ∧
        (1 ≤ x.toNat → s.i = s.pc + 2 → fetch t = .ok (wordOfBytes (s.reg 0) (s.reg 1)))) ∧
    (s.i.toNat + 2 ≤ 0xFFF →
      ∃ t, exec (.ldBVx x) s = .next t ∧
        fetch t = .ok (wordOfBytes (s.byteUnder 3 (bcdDigit (s.reg x)) (s.pc.toNat + 2))
          (s.byteUnder 3 (bcdDigit (s.reg x)) (s.pc.toNat + 3))) ∧
        (s.i = s.pc + 2 → fetch t = .ok (wordOfBytes (bcdDigit (s.reg x) 0) (bcdDigit (s.reg x) 1))))

/-! ### Whole-machine rules -/

/-- Every step keeps memory in its canonical form (the form is the model's, notes/assumptions 7). -/
def Obligations.StepKeepsMemoryCanonical : Prop :=
  ∀ s t : State, s.MemoryCanonical → step s = .next t → t.MemoryCanonical

/-- Every step keeps `pc` at or below 0x10FE and every live return address at or below 0x1000 (10_state.md R26, which the
spec marks as derived). -/
def Obligations.StepKeepsPcBounded : Prop :=
  ∀ s t : State, s.PcBounded → step s = .next t → t.PcBounded

/-- Every step keeps the latch and the status in agreement (60_exceptions.md R200, R201; decisions D5 and D15). That the
status stands in the state, and that ticks and the host's moves leave it, is the model's choice (notes/assumptions 4). -/
def Obligations.StepKeepsStatusAgreeing : Prop :=
  ∀ s t : State, s.StatusAgrees → step s = .next t → t.StatusAgrees

/-- The machine right after construction meets the three invariants, with every glyph set and so with the default one (R36,
R24). That the status port is `Ok` before the first step is the model's choice (notes/assumptions 4), and so is the canonical
form (notes/assumptions 7). -/
def Obligations.ResetMeetsTheInvariants : Prop :=
  (State.reset.MemoryCanonical ∧ State.reset.PcBounded ∧ State.reset.StatusAgrees) ∧
  ∀ rom : Config.GlyphRom,
    (State.construct rom).MemoryCanonical ∧ (State.construct rom).PcBounded ∧ (State.construct rom).StatusAgrees

/-- `HALT` is never cleared, and a stopped machine changes only by ticks and by the host's writes of the latch (10_state.md
R32, 60_exceptions.md R202, R224; decisions D5 and D6; the ports, kept, are notes/assumptions 4, the schedule is
notes/assumptions 5, and that an engine step answers no next state here is notes/assumptions 6). -/
def Obligations.FatalLatchIsSticky : Prop :=
  ∀ (s t : State) (c : Fault), s.halt = some c → step s = .next t →
    t.halt = some c ∧ OnlyChanges s t [.delay, .sound, .keys, .schedule]

/-- An instruction that takes a fatal condition has written nothing (20_memory.md R66, 60_exceptions.md R201; decision D4),
and the condition is the one its rule names: `StackOverflow` by CALL on a full stack, `StackUnderflow` by RET on an empty
one, `AddressOutOfRange` by an access above 0xFFF of DRW, LD B, LD [I] and LD Vx,[I] (R209, R223; decision D3). -/
def Obligations.FatalConditionsArePreciseAndCaused : Prop :=
  ∀ (i : Instr) (s t : State) (c : Fault), s.Running → exec i s = .next t → t.halt = some c →
    OnlyChanges s t [.halt, .status] ∧
    ((c = .stackOverflow ∧ (∃ nnn, i = .call nnn) ∧ s.sp.val = 16) ∨
     (c = .stackUnderflow ∧ i = .ret ∧ s.sp.val = 0) ∨
     (c = .addressOutOfRange ∧
      ((∃ x y n, i = .drw x y n ∧ 0 < n.toNat ∧ 0xFFF < s.i.toNat + n.toNat - 1) ∨
       (∃ x, i = .ldBVx x ∧ 0xFFF < s.i.toNat + 2) ∨
       (∃ x, i = .storeRegs x ∧ 0xFFF < s.i.toNat + x.toNat) ∨
       (∃ x, i = .loadRegs x ∧ 0xFFF < s.i.toNat + x.toNat))))

/-- Memory, the general registers, `I`, the stack and its depth, both timers, the grid, the keypad latch, `HALT` and the
status have the instructions the spec lists as their writers and no others (10_state.md R34's "written by", R20, R22, R30,
R31, R32; 20_memory.md R51, R60; 60_exceptions.md R200, R209, R215; decision D10): memory LD B and LD [I]; a register those of
`writesReg`; `I` LD I, ADD I and LD F; the stack CALL and RET; each timer its load, so that no instruction counts a timer
down; the grid CLS and DRW; the latch and the parameter `GLYPH_ROM` none; `HALT` CALL, RET, DRW, LD B, LD [I] and
LD Vx,[I]; the status these and LD Vx,K.
What each does to `pc` is `PcGoesWhereTheTableSays`. The clauses on the model's own fields and ports rest on its choices: the
draws on notes/assumptions 3, the status and the report on notes/assumptions 4, the schedule on notes/assumptions 5. -/
def Obligations.EachPartHasItsWriters : Prop :=
  ∀ (i : Instr) (s t : State), exec i s = .next t →
    ((∀ x, i ≠ .ldBVx x) → (∀ x, i ≠ .storeRegs x) → t.mem = s.mem) ∧
    t.mem.glyphs = s.mem.glyphs ∧
    (∀ r, writesReg i r = false → t.reg r = s.reg r) ∧
    ((∀ nnn, i ≠ .ldI nnn) → (∀ x, i ≠ .addIVx x) → (∀ x, i ≠ .ldFVx x) → t.i = s.i) ∧
    ((∀ nnn, i ≠ .call nnn) → t.stack = s.stack) ∧ ((∀ nnn, i ≠ .call nnn) → i ≠ .ret → t.sp = s.sp) ∧
    ((∀ x, i ≠ .ldDTVx x) → t.dt = s.dt) ∧ ((∀ x, i ≠ .ldSTVx x) → t.st = s.st) ∧
    (i ≠ .cls → (∀ x y n, i ≠ .drw x y n) → t.pix = s.pix) ∧ t.keys = s.keys ∧
    ((∀ nnn, i ≠ .call nnn) → i ≠ .ret → (∀ x y n, i ≠ .drw x y n) → (∀ x, i ≠ .ldBVx x) → (∀ x, i ≠ .storeRegs x) →
      (∀ x, i ≠ .loadRegs x) → t.halt = s.halt ∧ ((∀ x, i ≠ .ldVxK x) → t.status = s.status)) ∧
    ((∀ x kk, i ≠ .rnd x kk) → t.draws = s.draws) ∧ t.report = s.report ∧ t.schedule = s.schedule

/-- VF changes only by the six instructions that write it as a flag, or as the ordinary destination `Vx` with `x = 15`, or as
part of the block of LD VF,[I] (10_state.md R22; decision D10). -/
def Obligations.VFHasItsWriters : Prop :=
  ∀ (i : Instr) (s t : State), exec i s = .next t → t.reg 15 ≠ s.reg 15 →
    (∃ x y, i = .addReg x y ∨ i = .subReg x y ∨ i = .shr x y ∨ i = .subnReg x y ∨ i = .shl x y) ∨
    (∃ x y n, i = .drw x y n) ∨
    (∃ kk, i = .ldImm 15 kk ∨ i = .addImm 15 kk ∨ i = .rnd 15 kk) ∨
    (∃ y, i = .ldReg 15 y ∨ i = .orReg 15 y ∨ i = .andReg 15 y ∨ i = .xorReg 15 y) ∨
    i = .ldVxDT 15 ∨ i = .ldVxK 15 ∨ i = .loadRegs 15

/-- What an instruction does to `pc` (30_encoding.md R77, its table being `pcAfter`): unchanged if it takes a fatal
condition, otherwise the target of JP, CALL, RET and JP V0, `pc + 4` or `pc + 2` of the skips, `pc` or `pc + 2` of LD Vx,K,
and `pc + 2` of every other one (sums modulo 65536 by decision D7). -/
def Obligations.PcGoesWhereTheTableSays : Prop :=
  ∀ (i : Instr) (s t : State), s.Running → exec i s = .next t →
    (t.halt = none → t.pc = pcAfter s i) ∧ (t.halt ≠ none → t.pc = s.pc)

/-- The stack slots at the depth and above are never observed (10_state.md R28, which the spec marks as derived): from two
states that differ only there, an instruction gives two states that differ only at the new depth and above. -/
def Obligations.DeadStackSlotsAreNeverObserved : Prop :=
  ∀ (i : Instr) (s : State) (other : Vector Word 16),
    (∀ k : Fin 16, k.val < s.sp.val → other[k] = s.stack[k]) →
    ∃ t other', exec i s = .next t ∧ exec i { s with stack := other } = .next { t with stack := other' } ∧
      ∀ k : Fin 16, k.val < t.sp.val → other'[k] = t.stack[k]

/-- `ST` cannot be read by any instruction (10_state.md R29, R35): the same instruction on the same state with another sound
timer gives the same state but for the sound timer. -/
def Obligations.SoundTimerIsNeverRead : Prop :=
  ∀ (i : Instr) (s : State) (b : Byte),
    ∃ t b', exec i s = .next t ∧ exec i (s.setST b) = .next (t.setST b')

/-- No instruction writes the keypad latch, and only SKP, SKNP and LD Vx,K read it: any other one on the same state with
another latch gives the same state but for the latch (10_state.md R31, conflict C9). -/
def Obligations.OnlyKeyInstructionsReadTheLatch : Prop :=
  ∀ (i : Instr) (s : State) (latch : BitVec 16),
    ∃ t, exec i s = .next t ∧ t.keys = s.keys ∧
      ((∀ x, i ≠ .skp x) → (∀ x, i ≠ .sknp x) → (∀ x, i ≠ .ldVxK x) → exec i (s.setKeys latch) = .next (t.setKeys latch))

/-- Ticks are decoupled from instructions (60_exceptions.md R215): a tick and any instruction that neither reads nor writes
a timer can be taken in either order. -/
def Obligations.TicksCommuteWithOtherInstructions : Prop :=
  ∀ (i : Instr) (s : State),
    (∀ x, i ≠ .ldVxDT x) → (∀ x, i ≠ .ldDTVx x) → (∀ x, i ≠ .ldSTVx x) →
    ∃ t, exec i s = .next t ∧ exec i s.tick = .next t.tick

/-- At the end of a run, a jump to itself, an engine step changes nothing but the outputs and the schedule, and the run is
still at its end (70_reset_and_hazards.md R247; the definition of the end is decision D24; the two ports are
notes/assumptions 4, and the schedule, one move shorter, is notes/assumptions 5). -/
def Obligations.SelfJumpStaysAtItsEnd : Prop :=
  ∀ (s : State) (rest : List Move), s.EngineTurn rest → s.Ended →
    ∃ t, step s = .next t ∧ t.status = .ok ∧ t.report = none ∧ t.schedule = rest ∧ t.Ended ∧
      OnlyChanges s t [.status, .report, .schedule]
end

