-- ==== Sys2Proof/Laws/Decode.lean ====
section
/-! SUPPORT. The fields of an encoded word, and what the decoder does with a word of each category. -/

namespace Sys2Proof

/-- Every term is well formed: the field widths bound the operands (10_state.md R20). -/
theorem wellFormed_all (i : Instr) : i.wellFormed = true := by
  have hx : ∀ x : Nibble, regOk x = true := fun x => by simpa [regOk] using x.isLt
  have hn : ∀ a : Addr, decide (a.toNat < Config.memSize) = true := fun a => by simpa using a.isLt
  cases i <;> simp only [Instr.wellFormed, hx, hn, Bool.and_self]

/-! ### Bits of the three formats, and of the fields (R72, R73) -/

theorem getLsbD_formNNN (c : Nibble) (a : Addr) (k : Nat) :
    (formNNN c a).getLsbD k = if k < 12 then a.getLsbD k else c.getLsbD (k - 12) := BitVec.getLsbD_append

theorem getLsbD_formXKK (c x : Nibble) (b : Byte) (k : Nat) :
    (formXKK c x b).getLsbD k =
      if k < 8 then b.getLsbD k else if k - 8 < 4 then x.getLsbD (k - 8) else c.getLsbD (k - 8 - 4) :=
  BitVec.getLsbD_append.trans (by rw [BitVec.getLsbD_append])

theorem getLsbD_formXYN (c x y n : Nibble) (k : Nat) :
    (formXYN c x y n).getLsbD k =
      if k < 8 then (if k < 4 then n.getLsbD k else y.getLsbD (k - 4))
      else if k - 8 < 4 then x.getLsbD (k - 8) else c.getLsbD (k - 8 - 4) :=
  BitVec.getLsbD_append.trans (by rw [BitVec.getLsbD_append, BitVec.getLsbD_append])

theorem getLsbD_wordOfBytes (hi lo : Byte) (k : Nat) :
    (wordOfBytes hi lo).getLsbD k = if k < 8 then lo.getLsbD k else hi.getLsbD (k - 8) := BitVec.getLsbD_append

theorem getLsbD_field (w : Word) (lo len k : Nat) :
    (w.extractLsb' lo len).getLsbD k = (decide (k < len) && w.getLsbD (lo + k)) := BitVec.getLsbD_extractLsb' ..

@[simp] theorem fieldCat_formNNN (c : Nibble) (a : Addr) : fieldCat (formNNN c a) = c :=
  BitVec.eq_of_getLsbD_eq fun k hk => by
    rw [fieldCat, getLsbD_field, getLsbD_formNNN, if_neg (by omega), show 12 + k - 12 = k by omega]; simp [hk]

@[simp] theorem fieldNNN_formNNN (c : Nibble) (a : Addr) : fieldNNN (formNNN c a) = a :=
  BitVec.eq_of_getLsbD_eq fun k hk => by
    rw [fieldNNN, getLsbD_field, getLsbD_formNNN, if_pos (by omega), show 0 + k = k by omega]; simp [hk]

@[simp] theorem fieldCat_formXKK (c x : Nibble) (b : Byte) : fieldCat (formXKK c x b) = c :=
  BitVec.eq_of_getLsbD_eq fun k hk => by
    rw [fieldCat, getLsbD_field, getLsbD_formXKK, if_neg (by omega), if_neg (by omega),
      show 12 + k - 8 - 4 = k by omega]; simp [hk]

@[simp] theorem fieldX_formXKK (c x : Nibble) (b : Byte) : fieldX (formXKK c x b) = x :=
  BitVec.eq_of_getLsbD_eq fun k hk => by
    rw [fieldX, getLsbD_field, getLsbD_formXKK, if_neg (by omega), if_pos (by omega), show 8 + k - 8 = k by omega]
    simp [hk]

@[simp] theorem fieldKK_formXKK (c x : Nibble) (b : Byte) : fieldKK (formXKK c x b) = b :=
  BitVec.eq_of_getLsbD_eq fun k hk => by
    rw [fieldKK, getLsbD_field, getLsbD_formXKK, if_pos (by omega), show 0 + k = k by omega]; simp [hk]

@[simp] theorem fieldCat_formXYN (c x y n : Nibble) : fieldCat (formXYN c x y n) = c :=
  BitVec.eq_of_getLsbD_eq fun k hk => by
    rw [fieldCat, getLsbD_field, getLsbD_formXYN, if_neg (by omega), if_neg (by omega),
      show 12 + k - 8 - 4 = k by omega]; simp [hk]

@[simp] theorem fieldX_formXYN (c x y n : Nibble) : fieldX (formXYN c x y n) = x :=
  BitVec.eq_of_getLsbD_eq fun k hk => by
    rw [fieldX, getLsbD_field, getLsbD_formXYN, if_neg (by omega), if_pos (by omega), show 8 + k - 8 = k by omega]
    simp [hk]

@[simp] theorem fieldY_formXYN (c x y n : Nibble) : fieldY (formXYN c x y n) = y :=
  BitVec.eq_of_getLsbD_eq fun k hk => by
    rw [fieldY, getLsbD_field, getLsbD_formXYN, if_pos (by omega), if_neg (by omega), show 4 + k - 4 = k by omega]
    simp [hk]

@[simp] theorem fieldN_formXYN (c x y n : Nibble) : fieldN (formXYN c x y n) = n :=
  BitVec.eq_of_getLsbD_eq fun k hk => by
    rw [fieldN, getLsbD_field, getLsbD_formXYN, if_pos (by omega), if_pos (by omega), show 0 + k = k by omega]
    simp [hk]

/-- A category that is none of 0x0 to 0xE is 0xF, as the decoder's last arm takes it. -/
theorem nibble_eq_fifteen (c : Nibble) (h : ∀ k < 15, c ≠ BitVec.ofNat 4 k) : c = 15#4 := by
  revert h; revert c; decide

/-! ### A word is made of its fields -/

theorem formNNN_fields (w : Word) : formNNN (fieldCat w) (fieldNNN w) = w :=
  BitVec.eq_of_getLsbD_eq fun k hk => by
    rw [getLsbD_formNNN]
    split_ifs
    · rw [fieldNNN, getLsbD_field, show 0 + k = k by omega]; simp_all
    · rw [fieldCat, getLsbD_field, show 12 + (k - 12) = k by omega]; simp; omega

theorem formXKK_fields (w : Word) : formXKK (fieldCat w) (fieldX w) (fieldKK w) = w :=
  BitVec.eq_of_getLsbD_eq fun k hk => by
    rw [getLsbD_formXKK]
    split_ifs
    · rw [fieldKK, getLsbD_field, show 0 + k = k by omega]; simp_all
    · rw [fieldX, getLsbD_field, show 8 + (k - 8) = k by omega]; simp_all
    · rw [fieldCat, getLsbD_field, show 12 + (k - 8 - 4) = k by omega]; simp; omega

theorem formXYN_fields (w : Word) : formXYN (fieldCat w) (fieldX w) (fieldY w) (fieldN w) = w :=
  BitVec.eq_of_getLsbD_eq fun k hk => by
    rw [getLsbD_formXYN]
    split_ifs
    · rw [fieldN, getLsbD_field, show 0 + k = k by omega]; simp_all
    · rw [fieldY, getLsbD_field, show 4 + (k - 4) = k by omega]; simp; omega
    · rw [fieldX, getLsbD_field, show 8 + (k - 8) = k by omega]; simp_all
    · rw [fieldCat, getLsbD_field, show 12 + (k - 8 - 4) = k by omega]; simp; omega

/-! ### Bytes of a word (R55, R84) -/

@[simp] theorem wordOfBytes_high_low (w : Word) : wordOfBytes (highByte w) (lowByte w) = w :=
  BitVec.eq_of_getLsbD_eq fun k hk => by
    rw [getLsbD_wordOfBytes]
    split_ifs
    · rw [lowByte, getLsbD_field, show 0 + k = k by omega]; simp_all
    · rw [highByte, getLsbD_field, show 8 + (k - 8) = k by omega]; simp; omega

@[simp] theorem highByte_wordOfBytes (hi lo : Byte) : highByte (wordOfBytes hi lo) = hi :=
  BitVec.eq_of_getLsbD_eq fun k hk => by
    rw [highByte, getLsbD_field, getLsbD_wordOfBytes, if_neg (by omega), show 8 + k - 8 = k by omega]; simp [hk]

@[simp] theorem lowByte_wordOfBytes (hi lo : Byte) : lowByte (wordOfBytes hi lo) = lo :=
  BitVec.eq_of_getLsbD_eq fun k hk => by
    rw [lowByte, getLsbD_field, getLsbD_wordOfBytes, if_pos (by omega), show 0 + k = k by omega]; simp [hk]

end Sys2Proof
end

