-- ==== Sys2Proof/Laws/Memory.lean ====
section
/-! SUPPORT. Memory: a read after a write, the canonical form, where an access lands, and blocks of bytes. -/

namespace Sys2Proof.Machine

/-! ### Cells -/

variable {rom : Config.GlyphRom}

theorem Memory.readCells_cons (k : Nat) (v : Byte) (m : List Host.Cell) (a : Nat) :
    Memory.readCells rom ((k, v) :: m) a = if k = a then v else Memory.readCells rom m a := rfl

theorem Memory.readCells_insertCell (a : Nat) (b : Byte) (m : List Host.Cell) (a' : Nat) :
    Memory.readCells rom (Memory.insertCell a b m) a' = if a = a' then b else Memory.readCells rom m a' := by
  induction m with
  | nil => rfl
  | cons c rest ih =>
    obtain ⟨k, v⟩ := c
    rw [Memory.insertCell]
    by_cases h₁ : a < k
    · rw [if_pos h₁, Memory.readCells_cons]
    · rw [if_neg h₁]
      by_cases h₂ : a = k
      · rw [if_pos h₂, Memory.readCells_cons, Memory.readCells_cons]
        split_ifs <;> first | rfl | omega
      · rw [if_neg h₂, Memory.readCells_cons, Memory.readCells_cons, ih]
        split_ifs <;> first | rfl | omega

theorem Memory.readCells_removeCell (a : Nat) (m : List Host.Cell) (a' : Nat) :
    Memory.readCells rom (Memory.removeCell a m) a' = if a = a' then Memory.unlisted rom a' else Memory.readCells rom m a' := by
  induction m with
  | nil => rw [Memory.removeCell, Memory.readCells]; split_ifs <;> rfl
  | cons c rest ih =>
    obtain ⟨k, v⟩ := c
    rw [Memory.removeCell]
    by_cases h₁ : k = a
    · rw [if_pos h₁, ih, Memory.readCells_cons]
      split_ifs <;> first | rfl | omega
    · rw [if_neg h₁, Memory.readCells_cons, Memory.readCells_cons, ih]
      split_ifs <;> first | rfl | omega

theorem Memory.mem_insertCell {a : Nat} {b : Byte} {m : List Host.Cell} {c : Host.Cell}
    (h : c ∈ Memory.insertCell a b m) : c = (a, b) ∨ c ∈ m := by
  induction m with
  | nil => simpa [Memory.insertCell] using h
  | cons d rest ih =>
    obtain ⟨k, v⟩ := d
    simp only [Memory.insertCell] at h
    split_ifs at h <;> simp only [List.mem_cons] at h ⊢ <;> tauto

theorem Memory.mem_removeCell {a : Nat} {m : List Host.Cell} {c : Host.Cell} (h : c ∈ Memory.removeCell a m) : c ∈ m := by
  induction m with
  | nil => simp [Memory.removeCell] at h
  | cons d rest ih =>
    obtain ⟨k, v⟩ := d
    simp only [Memory.removeCell] at h
    split_ifs at h <;> simp only [List.mem_cons] at h ⊢ <;> tauto

/-- The canonical form of a listed cell and the rest. -/
theorem Memory.wfCells_cons {a : Nat} {b : Byte} {m : List Host.Cell} :
    Memory.wfCells rom ((a, b) :: m) = true ↔
      a < Config.memSize ∧ b ≠ Memory.unlisted rom a ∧ (∀ c ∈ m, a < c.1) ∧ Memory.wfCells rom m = true := by
  simp [Memory.wfCells, and_assoc]

theorem Memory.wfCells_insertCell {a : Nat} {b : Byte} {m : List Host.Cell} (ha : a < Config.memSize) (hb : b ≠ Memory.unlisted rom a)
    (hm : Memory.wfCells rom m = true) : Memory.wfCells rom (Memory.insertCell a b m) = true := by
  induction m with
  | nil => simp [Memory.insertCell, Memory.wfCells, ha, hb]
  | cons d rest ih =>
    obtain ⟨k, v⟩ := d
    obtain ⟨hk, hv, hlt, hrest⟩ := Memory.wfCells_cons.1 hm
    simp only [Memory.insertCell]
    split_ifs with h₁ h₂
    · refine Memory.wfCells_cons.2 ⟨ha, hb, ?_, hm⟩
      intro c hc
      rcases List.mem_cons.1 hc with rfl | hc
      · exact h₁
      · exact h₁.trans (hlt c hc)
    · subst h₂
      exact Memory.wfCells_cons.2 ⟨ha, hb, hlt, hrest⟩
    · refine Memory.wfCells_cons.2 ⟨hk, hv, ?_, ih hrest⟩
      intro c hc
      rcases Memory.mem_insertCell hc with rfl | hc
      · exact lt_of_le_of_ne (not_lt.1 h₁) (Ne.symm h₂)
      · exact hlt c hc

theorem Memory.wfCells_removeCell {a : Nat} {m : List Host.Cell} (hm : Memory.wfCells rom m = true) :
    Memory.wfCells rom (Memory.removeCell a m) = true := by
  induction m with
  | nil => rfl
  | cons d rest ih =>
    obtain ⟨k, v⟩ := d
    obtain ⟨hk, hv, hlt, hrest⟩ := Memory.wfCells_cons.1 hm
    simp only [Memory.removeCell]
    split_ifs
    · exact ih hrest
    · exact Memory.wfCells_cons.2 ⟨hk, hv, fun c hc => hlt c (Memory.mem_removeCell hc), ih hrest⟩

/-! ### Memory -/

@[simp] theorem Memory.write_glyphs (m : Memory) (a : Nat) (b : Byte) : (Memory.write m a b).glyphs = m.glyphs := rfl

/-- A read after a write: the byte written at its address, and the byte that was there everywhere else. -/
theorem Memory.read_write (m : Memory) (a : Nat) (b : Byte) (a' : Nat) :
    Memory.read (Memory.write m a b) a' = if a = a' then b else Memory.read m a' := by
  unfold Memory.read Memory.write
  by_cases hb : b = Memory.unlisted m.glyphs a
  · rw [if_pos hb, Memory.readCells_removeCell]
    split_ifs with h
    · rw [hb, h]
    · rfl
  · rw [if_neg hb, Memory.readCells_insertCell]

/-- A write below `MEM_SIZE` keeps the canonical form. -/
theorem Memory.wf_write {m : Memory} {a : Nat} {b : Byte} (ha : a < Config.memSize) (hm : Memory.wf m = true) :
    Memory.wf (Memory.write m a b) = true := by
  unfold Memory.wf Memory.write
  split_ifs with hb
  · exact Memory.wfCells_removeCell hm
  · exact Memory.wfCells_insertCell ha hb hm

/-- In the glyph region an unlisted address reads as its byte of the glyph set. -/
theorem Memory.unlisted_glyph (rom : Config.GlyphRom) {k : Nat} (h : k < Config.glyphRomSize) :
    Memory.unlisted rom (Config.glyphBase + k) = rom[k] := by
  rw [Memory.unlisted, if_pos (by omega), glyphByte, Nat.add_sub_cancel_left, Vector.getElem?_eq_getElem h]
  rfl

/-! ### Where an access lands (R52 to R54) -/

/-- Under the machine's policy an address exists below 0x1000 and is out of range above (R54). -/
theorem place_eq (addr : Nat) : place addr = if addr < Config.memSize then .cell addr else .outOfRange := rfl

/-- The range check of an instruction: nothing accessed, or the last address is at most 0xFFF. -/
theorem rangeOk_iff (base count : Nat) : rangeOk base count = true ↔ count = 0 ∨ base + count ≤ Config.memSize := by
  simp only [rangeOk, List.all_eq_true, List.mem_range, place_eq, bne_iff_ne, ne_eq]
  constructor
  · intro h
    by_contra hn
    have := h (count - 1) (by omega)
    rw [if_neg (by omega)] at this
    exact this rfl
  · rintro h k hk
    rw [if_pos (by omega)]
    simp

theorem memRead_of_lt {m : Memory} {addr : Nat} (h : addr < Config.memSize) : memRead m addr = Memory.read m addr := by
  simp [memRead, place_eq, h]

theorem memWrite_of_lt {m : Memory} {addr : Nat} {b : Byte} (h : addr < Config.memSize) :
    memWrite m addr b = Memory.write m addr b := by
  simp [memWrite, place_eq, h]

@[simp] theorem memWrite_glyphs (m : Memory) (addr : Nat) (b : Byte) : (memWrite m addr b).glyphs = m.glyphs := by
  by_cases h : addr < Config.memSize <;> simp [memWrite, place_eq, h]

/-- A store changes no parameter. -/
@[simp] theorem memWriteList_glyphs (m : Memory) (addr : Nat) (bs : List Byte) :
    (memWriteList m addr bs).glyphs = m.glyphs := by
  induction bs generalizing m addr with
  | nil => rfl
  | cons b rest ih => rw [memWriteList, ih, memWrite_glyphs]

/-- Every access keeps the canonical form. -/
theorem wf_memWrite {m : Memory} {addr : Nat} {b : Byte} (hm : Memory.wf m = true) :
    Memory.wf (memWrite m addr b) = true := by
  by_cases h : addr < Config.memSize
  · rw [memWrite_of_lt h]; exact Memory.wf_write h hm
  · simpa [memWrite, place_eq, h] using hm

theorem wf_memWriteList {m : Memory} {addr : Nat} {bs : List Byte} (hm : Memory.wf m = true) :
    Memory.wf (memWriteList m addr bs) = true := by
  induction bs generalizing m addr with
  | nil => exact hm
  | cons b rest ih => exact ih (wf_memWrite hm)

/-- A block of bytes stored in range: byte `k` of the block at `addr + k`, every other address as before. -/
theorem read_memWriteList {m : Memory} {addr : Nat} {bs : List Byte} (h : addr + bs.length ≤ Config.memSize) (a : Nat) :
    Memory.read (memWriteList m addr bs) a =
      if addr ≤ a ∧ a < addr + bs.length then bs.getD (a - addr) 0 else Memory.read m a := by
  induction bs generalizing m addr with
  | nil => rw [if_neg (by simp)]; rfl
  | cons b rest ih =>
    simp only [List.length_cons] at h ⊢
    rw [memWriteList, ih (by omega), memWrite_of_lt (by omega), Memory.read_write]
    by_cases h₁ : a = addr
    · subst h₁; rw [if_neg (by omega), if_pos rfl, if_pos (by omega)]; simp
    · by_cases h₂ : addr + 1 ≤ a ∧ a < addr + 1 + rest.length
      · rw [if_pos h₂, if_pos (by omega)]
        obtain ⟨k, rfl⟩ : ∃ k, a = addr + 1 + k := ⟨a - (addr + 1), by omega⟩
        rw [show addr + 1 + k - (addr + 1) = k by omega, show addr + 1 + k - addr = k + 1 by omega]
        simp
      · rw [if_neg h₂, if_neg (Ne.symm h₁), if_neg (by omega)]

/-- Memory right after construction: zero but for the glyph set (R36). -/
theorem read_construct (rom : Config.GlyphRom) (a : Nat) :
    Memory.read (State.construct rom).mem a = Memory.unlisted rom a := rfl

/-- Memory right after construction is in canonical form. -/
theorem wf_construct (rom : Config.GlyphRom) : Memory.wf (State.construct rom).mem = true := rfl

end Sys2Proof.Machine
end

