-- ==== Sys2Proof/Laws/State.lean ====
section
/-! SUPPORT. What each named update leaves in each field of the state: one lemma per field and update, so that no proof
unfolds a record update. -/

namespace Sys2Proof.Machine

variable (s : State)

@[simp] theorem State.setReg_v (x : Nibble) (b : Byte) : (s.setReg x b).v = s.v.set x.toNat b x.isLt := rfl
@[simp] theorem State.setReg_i (x : Nibble) (b : Byte) : (s.setReg x b).i = s.i := rfl
@[simp] theorem State.setReg_pc (x : Nibble) (b : Byte) : (s.setReg x b).pc = s.pc := rfl
@[simp] theorem State.setReg_stack (x : Nibble) (b : Byte) : (s.setReg x b).stack = s.stack := rfl
@[simp] theorem State.setReg_sp (x : Nibble) (b : Byte) : (s.setReg x b).sp = s.sp := rfl
@[simp] theorem State.setReg_dt (x : Nibble) (b : Byte) : (s.setReg x b).dt = s.dt := rfl
@[simp] theorem State.setReg_st (x : Nibble) (b : Byte) : (s.setReg x b).st = s.st := rfl
@[simp] theorem State.setReg_pix (x : Nibble) (b : Byte) : (s.setReg x b).pix = s.pix := rfl
@[simp] theorem State.setReg_keys (x : Nibble) (b : Byte) : (s.setReg x b).keys = s.keys := rfl
@[simp] theorem State.setReg_halt (x : Nibble) (b : Byte) : (s.setReg x b).halt = s.halt := rfl
@[simp] theorem State.setReg_mem (x : Nibble) (b : Byte) : (s.setReg x b).mem = s.mem := rfl
@[simp] theorem State.setReg_status (x : Nibble) (b : Byte) : (s.setReg x b).status = s.status := rfl
@[simp] theorem State.setReg_report (x : Nibble) (b : Byte) : (s.setReg x b).report = s.report := rfl
@[simp] theorem State.setReg_draws (x : Nibble) (b : Byte) : (s.setReg x b).draws = s.draws := rfl
@[simp] theorem State.setReg_schedule (x : Nibble) (b : Byte) : (s.setReg x b).schedule = s.schedule := rfl

@[simp] theorem State.setFlag_v (flag : Bool) : (s.setFlag flag).v = (s.setReg 15 (if flag then 1 else 0)).v := rfl
@[simp] theorem State.setFlag_i (flag : Bool) : (s.setFlag flag).i = s.i := rfl
@[simp] theorem State.setFlag_pc (flag : Bool) : (s.setFlag flag).pc = s.pc := rfl
@[simp] theorem State.setFlag_stack (flag : Bool) : (s.setFlag flag).stack = s.stack := rfl
@[simp] theorem State.setFlag_sp (flag : Bool) : (s.setFlag flag).sp = s.sp := rfl
@[simp] theorem State.setFlag_dt (flag : Bool) : (s.setFlag flag).dt = s.dt := rfl
@[simp] theorem State.setFlag_st (flag : Bool) : (s.setFlag flag).st = s.st := rfl
@[simp] theorem State.setFlag_pix (flag : Bool) : (s.setFlag flag).pix = s.pix := rfl
@[simp] theorem State.setFlag_keys (flag : Bool) : (s.setFlag flag).keys = s.keys := rfl
@[simp] theorem State.setFlag_halt (flag : Bool) : (s.setFlag flag).halt = s.halt := rfl
@[simp] theorem State.setFlag_mem (flag : Bool) : (s.setFlag flag).mem = s.mem := rfl
@[simp] theorem State.setFlag_status (flag : Bool) : (s.setFlag flag).status = s.status := rfl
@[simp] theorem State.setFlag_report (flag : Bool) : (s.setFlag flag).report = s.report := rfl
@[simp] theorem State.setFlag_draws (flag : Bool) : (s.setFlag flag).draws = s.draws := rfl
@[simp] theorem State.setFlag_schedule (flag : Bool) : (s.setFlag flag).schedule = s.schedule := rfl

@[simp] theorem State.setResultAndFlag_v (x : Nibble) (b : Byte) (flag : Bool) : (s.setResultAndFlag x b flag).v = ((s.setReg x b).setFlag flag).v := rfl
@[simp] theorem State.setResultAndFlag_i (x : Nibble) (b : Byte) (flag : Bool) : (s.setResultAndFlag x b flag).i = s.i := rfl
@[simp] theorem State.setResultAndFlag_pc (x : Nibble) (b : Byte) (flag : Bool) : (s.setResultAndFlag x b flag).pc = s.pc := rfl
@[simp] theorem State.setResultAndFlag_stack (x : Nibble) (b : Byte) (flag : Bool) : (s.setResultAndFlag x b flag).stack = s.stack := rfl
@[simp] theorem State.setResultAndFlag_sp (x : Nibble) (b : Byte) (flag : Bool) : (s.setResultAndFlag x b flag).sp = s.sp := rfl
@[simp] theorem State.setResultAndFlag_dt (x : Nibble) (b : Byte) (flag : Bool) : (s.setResultAndFlag x b flag).dt = s.dt := rfl
@[simp] theorem State.setResultAndFlag_st (x : Nibble) (b : Byte) (flag : Bool) : (s.setResultAndFlag x b flag).st = s.st := rfl
@[simp] theorem State.setResultAndFlag_pix (x : Nibble) (b : Byte) (flag : Bool) : (s.setResultAndFlag x b flag).pix = s.pix := rfl
@[simp] theorem State.setResultAndFlag_keys (x : Nibble) (b : Byte) (flag : Bool) : (s.setResultAndFlag x b flag).keys = s.keys := rfl
@[simp] theorem State.setResultAndFlag_halt (x : Nibble) (b : Byte) (flag : Bool) : (s.setResultAndFlag x b flag).halt = s.halt := rfl
@[simp] theorem State.setResultAndFlag_mem (x : Nibble) (b : Byte) (flag : Bool) : (s.setResultAndFlag x b flag).mem = s.mem := rfl
@[simp] theorem State.setResultAndFlag_status (x : Nibble) (b : Byte) (flag : Bool) : (s.setResultAndFlag x b flag).status = s.status := rfl
@[simp] theorem State.setResultAndFlag_report (x : Nibble) (b : Byte) (flag : Bool) : (s.setResultAndFlag x b flag).report = s.report := rfl
@[simp] theorem State.setResultAndFlag_draws (x : Nibble) (b : Byte) (flag : Bool) : (s.setResultAndFlag x b flag).draws = s.draws := rfl
@[simp] theorem State.setResultAndFlag_schedule (x : Nibble) (b : Byte) (flag : Bool) : (s.setResultAndFlag x b flag).schedule = s.schedule := rfl

@[simp] theorem State.setRegs_v (bs : List Byte) : (s.setRegs bs).v = s.v.mapIdx fun k old => bs.getD k old := rfl
@[simp] theorem State.setRegs_i (bs : List Byte) : (s.setRegs bs).i = s.i := rfl
@[simp] theorem State.setRegs_pc (bs : List Byte) : (s.setRegs bs).pc = s.pc := rfl
@[simp] theorem State.setRegs_stack (bs : List Byte) : (s.setRegs bs).stack = s.stack := rfl
@[simp] theorem State.setRegs_sp (bs : List Byte) : (s.setRegs bs).sp = s.sp := rfl
@[simp] theorem State.setRegs_dt (bs : List Byte) : (s.setRegs bs).dt = s.dt := rfl
@[simp] theorem State.setRegs_st (bs : List Byte) : (s.setRegs bs).st = s.st := rfl
@[simp] theorem State.setRegs_pix (bs : List Byte) : (s.setRegs bs).pix = s.pix := rfl
@[simp] theorem State.setRegs_keys (bs : List Byte) : (s.setRegs bs).keys = s.keys := rfl
@[simp] theorem State.setRegs_halt (bs : List Byte) : (s.setRegs bs).halt = s.halt := rfl
@[simp] theorem State.setRegs_mem (bs : List Byte) : (s.setRegs bs).mem = s.mem := rfl
@[simp] theorem State.setRegs_status (bs : List Byte) : (s.setRegs bs).status = s.status := rfl
@[simp] theorem State.setRegs_report (bs : List Byte) : (s.setRegs bs).report = s.report := rfl
@[simp] theorem State.setRegs_draws (bs : List Byte) : (s.setRegs bs).draws = s.draws := rfl
@[simp] theorem State.setRegs_schedule (bs : List Byte) : (s.setRegs bs).schedule = s.schedule := rfl

@[simp] theorem State.setI_v (w : Word) : (s.setI w).v = s.v := rfl
@[simp] theorem State.setI_i (w : Word) : (s.setI w).i = w := rfl
@[simp] theorem State.setI_pc (w : Word) : (s.setI w).pc = s.pc := rfl
@[simp] theorem State.setI_stack (w : Word) : (s.setI w).stack = s.stack := rfl
@[simp] theorem State.setI_sp (w : Word) : (s.setI w).sp = s.sp := rfl
@[simp] theorem State.setI_dt (w : Word) : (s.setI w).dt = s.dt := rfl
@[simp] theorem State.setI_st (w : Word) : (s.setI w).st = s.st := rfl
@[simp] theorem State.setI_pix (w : Word) : (s.setI w).pix = s.pix := rfl
@[simp] theorem State.setI_keys (w : Word) : (s.setI w).keys = s.keys := rfl
@[simp] theorem State.setI_halt (w : Word) : (s.setI w).halt = s.halt := rfl
@[simp] theorem State.setI_mem (w : Word) : (s.setI w).mem = s.mem := rfl
@[simp] theorem State.setI_status (w : Word) : (s.setI w).status = s.status := rfl
@[simp] theorem State.setI_report (w : Word) : (s.setI w).report = s.report := rfl
@[simp] theorem State.setI_draws (w : Word) : (s.setI w).draws = s.draws := rfl
@[simp] theorem State.setI_schedule (w : Word) : (s.setI w).schedule = s.schedule := rfl
@[simp] theorem State.setI_reg (w : Word) (r : Nibble) : (s.setI w).reg r = s.reg r := rfl

@[simp] theorem State.setPc_v (w : Word) : (s.setPc w).v = s.v := rfl
@[simp] theorem State.setPc_i (w : Word) : (s.setPc w).i = s.i := rfl
@[simp] theorem State.setPc_pc (w : Word) : (s.setPc w).pc = w := rfl
@[simp] theorem State.setPc_stack (w : Word) : (s.setPc w).stack = s.stack := rfl
@[simp] theorem State.setPc_sp (w : Word) : (s.setPc w).sp = s.sp := rfl
@[simp] theorem State.setPc_dt (w : Word) : (s.setPc w).dt = s.dt := rfl
@[simp] theorem State.setPc_st (w : Word) : (s.setPc w).st = s.st := rfl
@[simp] theorem State.setPc_pix (w : Word) : (s.setPc w).pix = s.pix := rfl
@[simp] theorem State.setPc_keys (w : Word) : (s.setPc w).keys = s.keys := rfl
@[simp] theorem State.setPc_halt (w : Word) : (s.setPc w).halt = s.halt := rfl
@[simp] theorem State.setPc_mem (w : Word) : (s.setPc w).mem = s.mem := rfl
@[simp] theorem State.setPc_status (w : Word) : (s.setPc w).status = s.status := rfl
@[simp] theorem State.setPc_report (w : Word) : (s.setPc w).report = s.report := rfl
@[simp] theorem State.setPc_draws (w : Word) : (s.setPc w).draws = s.draws := rfl
@[simp] theorem State.setPc_schedule (w : Word) : (s.setPc w).schedule = s.schedule := rfl
@[simp] theorem State.setPc_reg (w : Word) (r : Nibble) : (s.setPc w).reg r = s.reg r := rfl

@[simp] theorem State.advance_v (k : Word) : (s.advance k).v = s.v := rfl
@[simp] theorem State.advance_i (k : Word) : (s.advance k).i = s.i := rfl
@[simp] theorem State.advance_pc (k : Word) : (s.advance k).pc = s.pc + k := rfl
@[simp] theorem State.advance_stack (k : Word) : (s.advance k).stack = s.stack := rfl
@[simp] theorem State.advance_sp (k : Word) : (s.advance k).sp = s.sp := rfl
@[simp] theorem State.advance_dt (k : Word) : (s.advance k).dt = s.dt := rfl
@[simp] theorem State.advance_st (k : Word) : (s.advance k).st = s.st := rfl
@[simp] theorem State.advance_pix (k : Word) : (s.advance k).pix = s.pix := rfl
@[simp] theorem State.advance_keys (k : Word) : (s.advance k).keys = s.keys := rfl
@[simp] theorem State.advance_halt (k : Word) : (s.advance k).halt = s.halt := rfl
@[simp] theorem State.advance_mem (k : Word) : (s.advance k).mem = s.mem := rfl
@[simp] theorem State.advance_status (k : Word) : (s.advance k).status = s.status := rfl
@[simp] theorem State.advance_report (k : Word) : (s.advance k).report = s.report := rfl
@[simp] theorem State.advance_draws (k : Word) : (s.advance k).draws = s.draws := rfl
@[simp] theorem State.advance_schedule (k : Word) : (s.advance k).schedule = s.schedule := rfl
@[simp] theorem State.advance_reg (k : Word) (r : Nibble) : (s.advance k).reg r = s.reg r := rfl

@[simp] theorem State.setDT_v (b : Byte) : (s.setDT b).v = s.v := rfl
@[simp] theorem State.setDT_i (b : Byte) : (s.setDT b).i = s.i := rfl
@[simp] theorem State.setDT_pc (b : Byte) : (s.setDT b).pc = s.pc := rfl
@[simp] theorem State.setDT_stack (b : Byte) : (s.setDT b).stack = s.stack := rfl
@[simp] theorem State.setDT_sp (b : Byte) : (s.setDT b).sp = s.sp := rfl
@[simp] theorem State.setDT_dt (b : Byte) : (s.setDT b).dt = b := rfl
@[simp] theorem State.setDT_st (b : Byte) : (s.setDT b).st = s.st := rfl
@[simp] theorem State.setDT_pix (b : Byte) : (s.setDT b).pix = s.pix := rfl
@[simp] theorem State.setDT_keys (b : Byte) : (s.setDT b).keys = s.keys := rfl
@[simp] theorem State.setDT_halt (b : Byte) : (s.setDT b).halt = s.halt := rfl
@[simp] theorem State.setDT_mem (b : Byte) : (s.setDT b).mem = s.mem := rfl
@[simp] theorem State.setDT_status (b : Byte) : (s.setDT b).status = s.status := rfl
@[simp] theorem State.setDT_report (b : Byte) : (s.setDT b).report = s.report := rfl
@[simp] theorem State.setDT_draws (b : Byte) : (s.setDT b).draws = s.draws := rfl
@[simp] theorem State.setDT_schedule (b : Byte) : (s.setDT b).schedule = s.schedule := rfl
@[simp] theorem State.setDT_reg (b : Byte) (r : Nibble) : (s.setDT b).reg r = s.reg r := rfl

@[simp] theorem State.setST_v (b : Byte) : (s.setST b).v = s.v := rfl
@[simp] theorem State.setST_i (b : Byte) : (s.setST b).i = s.i := rfl
@[simp] theorem State.setST_pc (b : Byte) : (s.setST b).pc = s.pc := rfl
@[simp] theorem State.setST_stack (b : Byte) : (s.setST b).stack = s.stack := rfl
@[simp] theorem State.setST_sp (b : Byte) : (s.setST b).sp = s.sp := rfl
@[simp] theorem State.setST_dt (b : Byte) : (s.setST b).dt = s.dt := rfl
@[simp] theorem State.setST_st (b : Byte) : (s.setST b).st = b := rfl
@[simp] theorem State.setST_pix (b : Byte) : (s.setST b).pix = s.pix := rfl
@[simp] theorem State.setST_keys (b : Byte) : (s.setST b).keys = s.keys := rfl
@[simp] theorem State.setST_halt (b : Byte) : (s.setST b).halt = s.halt := rfl
@[simp] theorem State.setST_mem (b : Byte) : (s.setST b).mem = s.mem := rfl
@[simp] theorem State.setST_status (b : Byte) : (s.setST b).status = s.status := rfl
@[simp] theorem State.setST_report (b : Byte) : (s.setST b).report = s.report := rfl
@[simp] theorem State.setST_draws (b : Byte) : (s.setST b).draws = s.draws := rfl
@[simp] theorem State.setST_schedule (b : Byte) : (s.setST b).schedule = s.schedule := rfl
@[simp] theorem State.setST_reg (b : Byte) (r : Nibble) : (s.setST b).reg r = s.reg r := rfl

@[simp] theorem State.setMem_v (m : Memory) : (s.setMem m).v = s.v := rfl
@[simp] theorem State.setMem_i (m : Memory) : (s.setMem m).i = s.i := rfl
@[simp] theorem State.setMem_pc (m : Memory) : (s.setMem m).pc = s.pc := rfl
@[simp] theorem State.setMem_stack (m : Memory) : (s.setMem m).stack = s.stack := rfl
@[simp] theorem State.setMem_sp (m : Memory) : (s.setMem m).sp = s.sp := rfl
@[simp] theorem State.setMem_dt (m : Memory) : (s.setMem m).dt = s.dt := rfl
@[simp] theorem State.setMem_st (m : Memory) : (s.setMem m).st = s.st := rfl
@[simp] theorem State.setMem_pix (m : Memory) : (s.setMem m).pix = s.pix := rfl
@[simp] theorem State.setMem_keys (m : Memory) : (s.setMem m).keys = s.keys := rfl
@[simp] theorem State.setMem_halt (m : Memory) : (s.setMem m).halt = s.halt := rfl
@[simp] theorem State.setMem_mem (m : Memory) : (s.setMem m).mem = m := rfl
@[simp] theorem State.setMem_status (m : Memory) : (s.setMem m).status = s.status := rfl
@[simp] theorem State.setMem_report (m : Memory) : (s.setMem m).report = s.report := rfl
@[simp] theorem State.setMem_draws (m : Memory) : (s.setMem m).draws = s.draws := rfl
@[simp] theorem State.setMem_schedule (m : Memory) : (s.setMem m).schedule = s.schedule := rfl
@[simp] theorem State.setMem_reg (m : Memory) (r : Nibble) : (s.setMem m).reg r = s.reg r := rfl

@[simp] theorem State.setPix_v (p : Display) : (s.setPix p).v = s.v := rfl
@[simp] theorem State.setPix_i (p : Display) : (s.setPix p).i = s.i := rfl
@[simp] theorem State.setPix_pc (p : Display) : (s.setPix p).pc = s.pc := rfl
@[simp] theorem State.setPix_stack (p : Display) : (s.setPix p).stack = s.stack := rfl
@[simp] theorem State.setPix_sp (p : Display) : (s.setPix p).sp = s.sp := rfl
@[simp] theorem State.setPix_dt (p : Display) : (s.setPix p).dt = s.dt := rfl
@[simp] theorem State.setPix_st (p : Display) : (s.setPix p).st = s.st := rfl
@[simp] theorem State.setPix_pix (p : Display) : (s.setPix p).pix = p := rfl
@[simp] theorem State.setPix_keys (p : Display) : (s.setPix p).keys = s.keys := rfl
@[simp] theorem State.setPix_halt (p : Display) : (s.setPix p).halt = s.halt := rfl
@[simp] theorem State.setPix_mem (p : Display) : (s.setPix p).mem = s.mem := rfl
@[simp] theorem State.setPix_status (p : Display) : (s.setPix p).status = s.status := rfl
@[simp] theorem State.setPix_report (p : Display) : (s.setPix p).report = s.report := rfl
@[simp] theorem State.setPix_draws (p : Display) : (s.setPix p).draws = s.draws := rfl
@[simp] theorem State.setPix_schedule (p : Display) : (s.setPix p).schedule = s.schedule := rfl
@[simp] theorem State.setPix_reg (p : Display) (r : Nibble) : (s.setPix p).reg r = s.reg r := rfl

@[simp] theorem State.drawn_v : s.drawn.v = s.v := rfl
@[simp] theorem State.drawn_i : s.drawn.i = s.i := rfl
@[simp] theorem State.drawn_pc : s.drawn.pc = s.pc := rfl
@[simp] theorem State.drawn_stack : s.drawn.stack = s.stack := rfl
@[simp] theorem State.drawn_sp : s.drawn.sp = s.sp := rfl
@[simp] theorem State.drawn_dt : s.drawn.dt = s.dt := rfl
@[simp] theorem State.drawn_st : s.drawn.st = s.st := rfl
@[simp] theorem State.drawn_pix : s.drawn.pix = s.pix := rfl
@[simp] theorem State.drawn_keys : s.drawn.keys = s.keys := rfl
@[simp] theorem State.drawn_halt : s.drawn.halt = s.halt := rfl
@[simp] theorem State.drawn_mem : s.drawn.mem = s.mem := rfl
@[simp] theorem State.drawn_status : s.drawn.status = s.status := rfl
@[simp] theorem State.drawn_report : s.drawn.report = s.report := rfl
@[simp] theorem State.drawn_draws : s.drawn.draws = s.draws + 1 := rfl
@[simp] theorem State.drawn_schedule : s.drawn.schedule = s.schedule := rfl
@[simp] theorem State.drawn_reg (r : Nibble) : s.drawn.reg r = s.reg r := rfl

@[simp] theorem State.raise_v (c : Fault) : (s.raise c).v = s.v := rfl
@[simp] theorem State.raise_i (c : Fault) : (s.raise c).i = s.i := rfl
@[simp] theorem State.raise_pc (c : Fault) : (s.raise c).pc = s.pc := rfl
@[simp] theorem State.raise_stack (c : Fault) : (s.raise c).stack = s.stack := rfl
@[simp] theorem State.raise_sp (c : Fault) : (s.raise c).sp = s.sp := rfl
@[simp] theorem State.raise_dt (c : Fault) : (s.raise c).dt = s.dt := rfl
@[simp] theorem State.raise_st (c : Fault) : (s.raise c).st = s.st := rfl
@[simp] theorem State.raise_pix (c : Fault) : (s.raise c).pix = s.pix := rfl
@[simp] theorem State.raise_keys (c : Fault) : (s.raise c).keys = s.keys := rfl
@[simp] theorem State.raise_halt (c : Fault) : (s.raise c).halt = some c := rfl
@[simp] theorem State.raise_mem (c : Fault) : (s.raise c).mem = s.mem := rfl
@[simp] theorem State.raise_status (c : Fault) : (s.raise c).status = .fatal c := rfl
@[simp] theorem State.raise_report (c : Fault) : (s.raise c).report = s.report := rfl
@[simp] theorem State.raise_draws (c : Fault) : (s.raise c).draws = s.draws := rfl
@[simp] theorem State.raise_schedule (c : Fault) : (s.raise c).schedule = s.schedule := rfl
@[simp] theorem State.raise_reg (c : Fault) (r : Nibble) : (s.raise c).reg r = s.reg r := rfl

@[simp] theorem State.wait_v : s.wait.v = s.v := rfl
@[simp] theorem State.wait_i : s.wait.i = s.i := rfl
@[simp] theorem State.wait_pc : s.wait.pc = s.pc := rfl
@[simp] theorem State.wait_stack : s.wait.stack = s.stack := rfl
@[simp] theorem State.wait_sp : s.wait.sp = s.sp := rfl
@[simp] theorem State.wait_dt : s.wait.dt = s.dt := rfl
@[simp] theorem State.wait_st : s.wait.st = s.st := rfl
@[simp] theorem State.wait_pix : s.wait.pix = s.pix := rfl
@[simp] theorem State.wait_keys : s.wait.keys = s.keys := rfl
@[simp] theorem State.wait_halt : s.wait.halt = s.halt := rfl
@[simp] theorem State.wait_mem : s.wait.mem = s.mem := rfl
@[simp] theorem State.wait_status : s.wait.status = .waitKey := rfl
@[simp] theorem State.wait_report : s.wait.report = s.report := rfl
@[simp] theorem State.wait_draws : s.wait.draws = s.draws := rfl
@[simp] theorem State.wait_schedule : s.wait.schedule = s.schedule := rfl
@[simp] theorem State.wait_reg (r : Nibble) : s.wait.reg r = s.reg r := rfl

@[simp] theorem State.beginStep_v : s.beginStep.v = s.v := rfl
@[simp] theorem State.beginStep_i : s.beginStep.i = s.i := rfl
@[simp] theorem State.beginStep_pc : s.beginStep.pc = s.pc := rfl
@[simp] theorem State.beginStep_stack : s.beginStep.stack = s.stack := rfl
@[simp] theorem State.beginStep_sp : s.beginStep.sp = s.sp := rfl
@[simp] theorem State.beginStep_dt : s.beginStep.dt = s.dt := rfl
@[simp] theorem State.beginStep_st : s.beginStep.st = s.st := rfl
@[simp] theorem State.beginStep_pix : s.beginStep.pix = s.pix := rfl
@[simp] theorem State.beginStep_keys : s.beginStep.keys = s.keys := rfl
@[simp] theorem State.beginStep_halt : s.beginStep.halt = s.halt := rfl
@[simp] theorem State.beginStep_mem : s.beginStep.mem = s.mem := rfl
@[simp] theorem State.beginStep_status : s.beginStep.status = .ok := rfl
@[simp] theorem State.beginStep_report : s.beginStep.report = none := rfl
@[simp] theorem State.beginStep_draws : s.beginStep.draws = s.draws := rfl
@[simp] theorem State.beginStep_schedule : s.beginStep.schedule = s.schedule := rfl
@[simp] theorem State.beginStep_reg (r : Nibble) : s.beginStep.reg r = s.reg r := rfl

@[simp] theorem State.skipUnknown_v (w : Word) : (s.skipUnknown w).v = s.v := rfl
@[simp] theorem State.skipUnknown_i (w : Word) : (s.skipUnknown w).i = s.i := rfl
@[simp] theorem State.skipUnknown_pc (w : Word) : (s.skipUnknown w).pc = s.pc + 2 := rfl
@[simp] theorem State.skipUnknown_stack (w : Word) : (s.skipUnknown w).stack = s.stack := rfl
@[simp] theorem State.skipUnknown_sp (w : Word) : (s.skipUnknown w).sp = s.sp := rfl
@[simp] theorem State.skipUnknown_dt (w : Word) : (s.skipUnknown w).dt = s.dt := rfl
@[simp] theorem State.skipUnknown_st (w : Word) : (s.skipUnknown w).st = s.st := rfl
@[simp] theorem State.skipUnknown_pix (w : Word) : (s.skipUnknown w).pix = s.pix := rfl
@[simp] theorem State.skipUnknown_keys (w : Word) : (s.skipUnknown w).keys = s.keys := rfl
@[simp] theorem State.skipUnknown_halt (w : Word) : (s.skipUnknown w).halt = s.halt := rfl
@[simp] theorem State.skipUnknown_mem (w : Word) : (s.skipUnknown w).mem = s.mem := rfl
@[simp] theorem State.skipUnknown_status (w : Word) : (s.skipUnknown w).status = s.status := rfl
@[simp] theorem State.skipUnknown_report (w : Word) : (s.skipUnknown w).report = some { word := w, addr := s.pc } := rfl
@[simp] theorem State.skipUnknown_draws (w : Word) : (s.skipUnknown w).draws = s.draws := rfl
@[simp] theorem State.skipUnknown_schedule (w : Word) : (s.skipUnknown w).schedule = s.schedule := rfl
@[simp] theorem State.skipUnknown_reg (w : Word) (r : Nibble) : (s.skipUnknown w).reg r = s.reg r := rfl

@[simp] theorem State.tick_v : s.tick.v = s.v := rfl
@[simp] theorem State.tick_i : s.tick.i = s.i := rfl
@[simp] theorem State.tick_pc : s.tick.pc = s.pc := rfl
@[simp] theorem State.tick_stack : s.tick.stack = s.stack := rfl
@[simp] theorem State.tick_sp : s.tick.sp = s.sp := rfl
@[simp] theorem State.tick_dt : s.tick.dt = tickDown s.dt := rfl
@[simp] theorem State.tick_st : s.tick.st = tickDown s.st := rfl
@[simp] theorem State.tick_pix : s.tick.pix = s.pix := rfl
@[simp] theorem State.tick_keys : s.tick.keys = s.keys := rfl
@[simp] theorem State.tick_halt : s.tick.halt = s.halt := rfl
@[simp] theorem State.tick_mem : s.tick.mem = s.mem := rfl
@[simp] theorem State.tick_status : s.tick.status = s.status := rfl
@[simp] theorem State.tick_report : s.tick.report = s.report := rfl
@[simp] theorem State.tick_draws : s.tick.draws = s.draws := rfl
@[simp] theorem State.tick_schedule : s.tick.schedule = s.schedule := rfl
@[simp] theorem State.tick_reg (r : Nibble) : s.tick.reg r = s.reg r := rfl

@[simp] theorem State.setKeys_v (latch : BitVec 16) : (s.setKeys latch).v = s.v := rfl
@[simp] theorem State.setKeys_i (latch : BitVec 16) : (s.setKeys latch).i = s.i := rfl
@[simp] theorem State.setKeys_pc (latch : BitVec 16) : (s.setKeys latch).pc = s.pc := rfl
@[simp] theorem State.setKeys_stack (latch : BitVec 16) : (s.setKeys latch).stack = s.stack := rfl
@[simp] theorem State.setKeys_sp (latch : BitVec 16) : (s.setKeys latch).sp = s.sp := rfl
@[simp] theorem State.setKeys_dt (latch : BitVec 16) : (s.setKeys latch).dt = s.dt := rfl
@[simp] theorem State.setKeys_st (latch : BitVec 16) : (s.setKeys latch).st = s.st := rfl
@[simp] theorem State.setKeys_pix (latch : BitVec 16) : (s.setKeys latch).pix = s.pix := rfl
@[simp] theorem State.setKeys_keys (latch : BitVec 16) : (s.setKeys latch).keys = latch := rfl
@[simp] theorem State.setKeys_halt (latch : BitVec 16) : (s.setKeys latch).halt = s.halt := rfl
@[simp] theorem State.setKeys_mem (latch : BitVec 16) : (s.setKeys latch).mem = s.mem := rfl
@[simp] theorem State.setKeys_status (latch : BitVec 16) : (s.setKeys latch).status = s.status := rfl
@[simp] theorem State.setKeys_report (latch : BitVec 16) : (s.setKeys latch).report = s.report := rfl
@[simp] theorem State.setKeys_draws (latch : BitVec 16) : (s.setKeys latch).draws = s.draws := rfl
@[simp] theorem State.setKeys_schedule (latch : BitVec 16) : (s.setKeys latch).schedule = s.schedule := rfl
@[simp] theorem State.setKeys_reg (latch : BitVec 16) (r : Nibble) : (s.setKeys latch).reg r = s.reg r := rfl

@[simp] theorem State.setSchedule_v (moves : List Move) : (s.setSchedule moves).v = s.v := rfl
@[simp] theorem State.setSchedule_i (moves : List Move) : (s.setSchedule moves).i = s.i := rfl
@[simp] theorem State.setSchedule_pc (moves : List Move) : (s.setSchedule moves).pc = s.pc := rfl
@[simp] theorem State.setSchedule_stack (moves : List Move) : (s.setSchedule moves).stack = s.stack := rfl
@[simp] theorem State.setSchedule_sp (moves : List Move) : (s.setSchedule moves).sp = s.sp := rfl
@[simp] theorem State.setSchedule_dt (moves : List Move) : (s.setSchedule moves).dt = s.dt := rfl
@[simp] theorem State.setSchedule_st (moves : List Move) : (s.setSchedule moves).st = s.st := rfl
@[simp] theorem State.setSchedule_pix (moves : List Move) : (s.setSchedule moves).pix = s.pix := rfl
@[simp] theorem State.setSchedule_keys (moves : List Move) : (s.setSchedule moves).keys = s.keys := rfl
@[simp] theorem State.setSchedule_halt (moves : List Move) : (s.setSchedule moves).halt = s.halt := rfl
@[simp] theorem State.setSchedule_mem (moves : List Move) : (s.setSchedule moves).mem = s.mem := rfl
@[simp] theorem State.setSchedule_status (moves : List Move) : (s.setSchedule moves).status = s.status := rfl
@[simp] theorem State.setSchedule_report (moves : List Move) : (s.setSchedule moves).report = s.report := rfl
@[simp] theorem State.setSchedule_draws (moves : List Move) : (s.setSchedule moves).draws = s.draws := rfl
@[simp] theorem State.setSchedule_schedule (moves : List Move) : (s.setSchedule moves).schedule = moves := rfl
@[simp] theorem State.setSchedule_reg (moves : List Move) (r : Nibble) : (s.setSchedule moves).reg r = s.reg r := rfl

end Sys2Proof.Machine
end

