-- ==== Sys2Proof/Laws/Ops.lean ====
section
/-! SUPPORT. What each shared operation does, said once: registers, flags, blocks, the stack, fetch, keys, the range check. -/

namespace Sys2Proof.Machine

/-! ### Registers -/

theorem nibble_toNat_ne {x r : Nibble} (h : r ≠ x) : x.toNat ≠ r.toNat := fun e => h (BitVec.eq_of_toNat_eq e.symm)

/-- Writing a register changes that register and no other. -/
theorem State.reg_setReg (s : State) (x : Nibble) (b : Byte) (r : Nibble) :
    (s.setReg x b).reg r = if r = x then b else s.reg r := by
  by_cases h : r = x
  · subst h; simp [State.reg, State.setReg]
  · simp [State.reg, State.setReg, h, nibble_toNat_ne h]

/-- The flag goes to VF and to no other register. -/
theorem State.reg_setFlag (s : State) (flag : Bool) (r : Nibble) :
    (s.setFlag flag).reg r = if r = 15 then (if flag then 1 else 0) else s.reg r := State.reg_setReg ..

/-- The flag is written last: VF holds it whatever the destination is (R21). -/
theorem State.reg_setResultAndFlag (s : State) (x : Nibble) (b : Byte) (flag : Bool) (r : Nibble) :
    (s.setResultAndFlag x b flag).reg r = if r = 15 then (if flag then 1 else 0) else if r = x then b else s.reg r := by
  rw [State.setResultAndFlag, State.reg_setFlag, State.reg_setReg]

/-- A block of registers: those the list reaches take its bytes, the others stay. -/
theorem State.reg_setRegs (s : State) (bs : List Byte) (r : Nibble) :
    (s.setRegs bs).reg r = bs.getD r.toNat (s.reg r) := by
  simp [State.reg, State.setRegs]

/-! ### Blocks (R193, R194) -/

@[simp] theorem State.regBlock_length (s : State) (x : Nibble) : (s.regBlock x).length = x.toNat + 1 := by
  simp [State.regBlock, blockCount]

@[simp] theorem State.memBlock_length (s : State) (x : Nibble) : (s.memBlock x).length = x.toNat + 1 := by
  simp [State.memBlock, blockCount]

theorem State.regBlock_getD (s : State) (x : Nibble) (k : Nat) (d : Byte) :
    (s.regBlock x).getD k d = if k ≤ x.toNat then s.reg (BitVec.ofNat 4 k) else d := by
  by_cases h : k ≤ x.toNat
  · simp [State.regBlock, blockCount, List.getD_eq_getElem?_getD, h, Nat.lt_succ_of_le h]
  · simp [State.regBlock, blockCount, List.getD_eq_getElem?_getD, h]

theorem State.memBlock_getD (s : State) (x : Nibble) (k : Nat) (d : Byte) :
    (s.memBlock x).getD k d = if k ≤ x.toNat then memRead s.mem (s.base + k) else d := by
  by_cases h : k ≤ x.toNat
  · simp [State.memBlock, blockCount, List.getD_eq_getElem?_getD, h, Nat.lt_succ_of_le h]
  · simp [State.memBlock, blockCount, List.getD_eq_getElem?_getD, h]

/-! ### The stack controller (R27) -/

/-- A push on a full stack raises `StackOverflow`. -/
theorem State.push_full {s : State} {w : Word} (h : s.sp.val = Config.stackCap) : s.push w = .error .stackOverflow := by
  simp [State.push, h]

/-- A push below the capacity: the slot at the old depth holds the value, the depth is one more, nothing else changes. -/
theorem State.push_ok {s : State} {w : Word} (h : s.sp.val < Config.stackCap) :
    s.push w = .ok { s with stack := s.stack.set s.sp.val w h, sp := ⟨s.sp.val + 1, Nat.succ_lt_succ h⟩ } := by
  simp [State.push, h]

/-- A pop of an empty stack raises `StackUnderflow`. -/
theorem State.pop_empty {s : State} (h : s.sp.val = 0) : s.pop = .error .stackUnderflow := by
  unfold State.pop
  split
  · rfl
  · rename_i n hn e; rw [e] at h; simp at h

/-- A pop: the value of the last live slot, the depth is one less, the slot keeps its value. -/
theorem State.pop_ok {s : State} {n : Nat} (h : s.sp.val = n + 1) :
    ∃ hn : n < Config.stackCap, s.pop = .ok (s.stack[n]'hn, { s with sp := ⟨n, Nat.lt_succ_of_lt hn⟩ }) := by
  have hlt : n < Config.stackCap := by have := s.sp.isLt; omega
  refine ⟨hlt, ?_⟩
  unfold State.pop
  split
  · rename_i e; rw [e] at h; simp at h
  · rename_i m hm e
    rw [e] at h
    have : m = n := by simpa using h
    subst this
    rfl

/-! ### Fetch (R55) -/

/-- A fetch in range reads the two bytes at `pc`, big-endian. -/
theorem fetch_ok {s : State} (h : s.pc.toNat + 2 ≤ Config.memSize) :
    fetch s = .ok (wordOfBytes (Memory.read s.mem s.pc.toNat) (Memory.read s.mem (s.pc.toNat + 1))) := by
  rw [fetch, if_pos ((rangeOk_iff _ _).2 (.inr h)), memRead_of_lt (by omega), memRead_of_lt (by omega)]

/-- A fetch past 0xFFE raises `AddressOutOfRange`. -/
theorem fetch_error {s : State} (h : Config.memSize < s.pc.toNat + 2) : fetch s = .error .addressOutOfRange := by
  rw [fetch, if_neg]
  rw [rangeOk_iff]
  simp [Config.insnBytes]; omega

/-! ### Keys (R181) -/

/-- No key is held exactly when the latch is all false. -/
theorem State.lowestKey_none {s : State} : s.lowestKey = none ↔ ∀ k < 16, s.keys.getLsbD k = false := by
  simp [State.lowestKey, List.find?_eq_none]

/-- The lowest held key is held, and no lower one is. -/
theorem State.lowestKey_some {s : State} {k : Nat} :
    s.lowestKey = some k ↔ k < 16 ∧ s.keys.getLsbD k = true ∧ ∀ j < k, s.keys.getLsbD j = false := by
  constructor
  · intro h
    rw [State.lowestKey, List.find?_range_eq_some] at h
    simpa [and_comm, and_assoc, and_left_comm] using h
  · rintro ⟨h₁, h₂, h₃⟩
    rw [State.lowestKey, List.find?_range_eq_some]
    exact ⟨h₂, by simpa using h₁, by simpa using h₃⟩

/-! ### How an instruction ends -/

/-- An access in range: the instruction goes on. -/
theorem State.withBlock_ok {s : State} {count : Nat} {go : Answer} (h : count = 0 ∨ s.base + count ≤ Config.memSize) :
    s.withBlock count go = go := by
  rw [State.withBlock, if_pos ((rangeOk_iff _ _).2 h)]

/-- An access out of range: `AddressOutOfRange`, and nothing written. -/
theorem State.withBlock_out {s : State} {count : Nat} {go : Answer} (h₀ : count ≠ 0)
    (h : Config.memSize < s.base + count) : s.withBlock count go = .next (s.raise .addressOutOfRange) := by
  rw [State.withBlock, if_neg]
  rw [rangeOk_iff]
  omega

/-- The two ends of an instruction that accesses memory. -/
theorem State.withBlock_cases (s : State) (count : Nat) (go : Answer) :
    s.withBlock count go = go ∨ s.withBlock count go = .next (s.raise .addressOutOfRange) := by
  unfold State.withBlock; split_ifs <;> simp

/-! ### Timers (R214) -/

/-- One tick takes one off, and 0 stays 0. -/
theorem tickDown_toNat (b : Byte) : (tickDown b).toNat = b.toNat - 1 := by
  unfold tickDown
  split_ifs with h
  · subst h; rfl
  · have : b.toNat ≠ 0 := fun e => h (BitVec.eq_of_toNat_eq e)
    rw [BitVec.toNat_sub]
    have := b.isLt
    simp; omega

/-! ### The loader (R245) -/

/-- An image of at most 3584 bytes is accepted and written from 0x200 up. -/
theorem State.load_ok {s : State} {image : List Byte} (h : image.length ≤ 3584) :
    s.load image = some (s.setMem (memWriteList s.mem Config.loadBase image)) := by
  have : imageOk image = true := decide_eq_true (show Config.loadBase + image.length ≤ Config.memSize by
    simp only [Config.loadBase, Config.memSize]; omega)
  simp only [State.load, this, if_true]

/-- A longer image is refused. -/
theorem State.load_refused {s : State} {image : List Byte} (h : 3584 < image.length) : s.load image = none := by
  have : imageOk image = false := decide_eq_false (show ¬ Config.loadBase + image.length ≤ Config.memSize by
    simp only [Config.loadBase, Config.memSize]; omega)
  simp only [State.load, this, Bool.false_eq_true, if_false]

end Sys2Proof.Machine
end

