-- ==== Sys2Proof/Laws/Draw.lean ====
section
/-! SUPPORT. Drawing a sprite: which cells are inverted and when the flag is set (45_draw.md R160 to R163). -/

namespace Sys2Proof.Machine

theorem getLsbD_one_shift (c k : Nat) (hk : k < 64) : (1#64 <<< c).getLsbD k = decide (c = k) := by
  rw [BitVec.getLsbD_shiftLeft]
  by_cases h : k < c
  · simp [h, show c ≠ k by omega]
  · by_cases h' : c = k
    · simp [h', hk]
    · simp [h, h', hk, show ¬ k - c = 0 by omega]

/-- Inverting a cell changes that cell and no other. -/
theorem Display.cell_flip (p : Display) (r c r' c' : Nat) :
    (p.flip r c).cell r' c' = (p.cell r' c' ^^ decide (SameCell (r, c) (r', c'))) := by
  have hc : c' % Config.dispCols < 64 := Nat.mod_lt _ (by decide)
  by_cases hr : r % Config.dispRows = r' % Config.dispRows
  · simp only [Display.cell, Display.flip, hr, Vector.getElem_set_self, BitVec.getLsbD_xor, getLsbD_one_shift _ _ hc,
      SameCell, true_and]
  · simp [Display.cell, Display.flip, SameCell, hr]

@[simp] theorem Display.cell_blank (r c : Nat) : Display.blank.cell r c = false := by
  simp [Display.cell, Display.blank]

/-! ### A list of pixels -/

/-- Draws the pixels of a list, in order. -/
def Canvas.drawAll (k : Canvas) (ps : List (Nat × Nat)) : Canvas := ps.foldl (fun k p => k.drawPixel p.1 p.2) k

/-- The 1 bits of a sprite row, as grid coordinates. -/
def rowPixels (b : Byte) (r c : Nat) : List (Nat × Nat) :=
  ((List.range 8).filter fun col => b.getLsbD (7 - col)).map fun col => (r, c + col)

/-- The 1 bits of a sprite, as grid coordinates. -/
def spritePixels (m : Memory) (base n y x : Nat) : List (Nat × Nat) :=
  (List.range n).flatMap fun row => rowPixels (memRead m (base + row)) (y + row) x

theorem Canvas.drawByte_eq (k : Canvas) (b : Byte) (r c : Nat) : k.drawByte b r c = k.drawAll (rowPixels b r c) := by
  simp only [Canvas.drawByte, Canvas.drawAll, rowPixels, List.foldl_map, List.foldl_filter]

theorem Canvas.drawSprite_eq (k : Canvas) (m : Memory) (base n y x : Nat) :
    k.drawSprite m base n y x = k.drawAll (spritePixels m base n y x) := by
  simp only [Canvas.drawSprite, Canvas.drawAll, spritePixels, List.foldl_flatMap, Canvas.drawByte_eq]

theorem mem_spritePixels {m : Memory} {base n y x : Nat} {p : Nat × Nat} :
    p ∈ spritePixels m base n y x ↔
      ∃ row < n, ∃ col < 8, (memRead m (base + row)).getLsbD (7 - col) = true ∧ p = (y + row, x + col) := by
  simp only [spritePixels, rowPixels, List.mem_flatMap, List.mem_range, List.mem_map, List.mem_filter]
  constructor
  · rintro ⟨row, hr, col, ⟨hc, hb⟩, rfl⟩; exact ⟨row, hr, col, hc, hb, rfl⟩
  · rintro ⟨row, hr, col, hc, hb, rfl⟩; exact ⟨row, hr, col, ⟨hc, hb⟩, rfl⟩

/-- The pixels of one sprite land on distinct cells: 8 < 64 columns, at most 15 < 32 rows (R163). -/
theorem spritePixels_distinct (m : Memory) (base : Nat) {n : Nat} (hn : n ≤ 32) (y x : Nat) :
    (spritePixels m base n y x).Pairwise fun p q => ¬ SameCell p q := by
  rw [spritePixels, List.pairwise_flatMap]
  constructor
  · intro row _
    rw [rowPixels, List.pairwise_map]
    refine List.Pairwise.filter _ ?_
    refine List.Pairwise.imp_of_mem ?_ List.pairwise_lt_range
    intro a b ha hb hab h
    have := List.mem_range.1 ha; have := List.mem_range.1 hb
    have := h.2
    simp only [Config.dispCols] at this
    omega
  · refine List.Pairwise.imp_of_mem ?_ List.pairwise_lt_range
    intro a b ha hb hab p hp q hq h
    have := List.mem_range.1 ha; have := List.mem_range.1 hb
    simp only [rowPixels, List.mem_map] at hp hq
    obtain ⟨_, _, rfl⟩ := hp
    obtain ⟨_, _, rfl⟩ := hq
    have := h.1
    simp only [Config.dispRows] at this
    omega

/-- Distinct pixels: each cell is inverted exactly if a pixel of the list lands on it. -/
theorem Canvas.drawAll_cell {ps : List (Nat × Nat)} (hd : ps.Pairwise fun p q => ¬ SameCell p q) (k : Canvas) (r c : Nat) :
    (k.drawAll ps).pix.cell r c = (k.pix.cell r c ^^ decide (∃ p ∈ ps, SameCell p (r, c))) := by
  induction ps generalizing k with
  | nil => simp [Canvas.drawAll]
  | cons p rest ih =>
    rw [List.pairwise_cons] at hd
    have step : k.drawAll (p :: rest) = (k.drawPixel p.1 p.2).drawAll rest := rfl
    rw [step, ih hd.2]
    simp only [Canvas.drawPixel, Display.cell_flip, List.mem_cons, exists_eq_or_imp]
    by_cases h : SameCell p (r, c)
    · have hrest : ¬ ∃ q ∈ rest, SameCell q (r, c) := fun ⟨q, hq, hs⟩ =>
        hd.1 q hq ⟨h.1.trans hs.1.symm, h.2.trans hs.2.symm⟩
      simp [h, hrest]
    · simp [h]

/-- Distinct pixels: the flag is set exactly if a pixel lands on a cell that held 1 before. -/
theorem Canvas.drawAll_hit {ps : List (Nat × Nat)} (hd : ps.Pairwise fun p q => ¬ SameCell p q) (k : Canvas) :
    (k.drawAll ps).hit = (k.hit || decide (∃ p ∈ ps, k.pix.cell p.1 p.2 = true)) := by
  induction ps generalizing k with
  | nil => simp [Canvas.drawAll]
  | cons p rest ih =>
    rw [List.pairwise_cons] at hd
    have step : k.drawAll (p :: rest) = (k.drawPixel p.1 p.2).drawAll rest := rfl
    have same : (∃ q ∈ rest, (k.drawPixel p.1 p.2).pix.cell q.1 q.2 = true) ↔ ∃ q ∈ rest, k.pix.cell q.1 q.2 = true := by
      constructor <;> rintro ⟨q, hq, hs⟩ <;> refine ⟨q, hq, ?_⟩ <;>
        simpa [Canvas.drawPixel, Display.cell_flip, hd.1 q hq] using hs
    rw [step, ih hd.2]
    simp only [same]
    simp only [Canvas.drawPixel, List.mem_cons, exists_eq_or_imp, Bool.or_assoc, Bool.decide_or, Bool.decide_eq_true]

/-! ### The sprite of DRW -/

/-- The rows of the sprite exist: DRW reads nothing, or its last row is at or below 0xFFF (R166). -/
abbrev State.SpriteInRange (s : State) (n : Nibble) : Prop := n.toNat = 0 ∨ s.base + n.toNat ≤ Config.memSize

theorem State.sprite_pixels {s : State} {n : Nibble} (hi : s.SpriteInRange n) (x y : Nibble) (P : Nat × Nat → Prop) :
    (∃ p ∈ spritePixels s.mem s.base n.toNat (s.reg y).toNat (s.reg x).toNat, P p) ↔
      ∃ row < n.toNat, ∃ col < 8, s.spriteBit row col = true ∧ P ((s.reg y).toNat + row, (s.reg x).toNat + col) := by
  have hb : ∀ row < n.toNat, memRead s.mem (s.base + row) = s.byteAt (s.base + row) := fun row hr =>
    memRead_of_lt (by rcases hi with h | h <;> omega)
  constructor
  · rintro ⟨p, hp, hs⟩
    obtain ⟨row, hr, col, hc, h, rfl⟩ := mem_spritePixels.1 hp
    exact ⟨row, hr, col, hc, by rwa [hb row hr] at h, hs⟩
  · rintro ⟨row, hr, col, hc, h, hs⟩
    exact ⟨_, mem_spritePixels.2 ⟨row, hr, col, hc, by rwa [hb row hr], rfl⟩, hs⟩

/-- A cell on which a 1 bit of the sprite lands is inverted (R160, R162). -/
theorem State.sprite_cell_covered {s : State} {x y n : Nibble} (hi : s.SpriteInRange n) {r c : Nat}
    (h : s.spriteCovers x y n r c) : (s.sprite x y n).pix.cell r c = !s.pix.cell r c := by
  have hn : n.toNat ≤ 32 := by have := n.isLt; omega
  rw [State.sprite, Canvas.drawSprite_eq, Canvas.drawAll_cell (spritePixels_distinct _ _ hn _ _),
    decide_eq_true ((State.sprite_pixels hi x y fun p => SameCell p (r, c)).2 h), Bool.xor_true]

/-- Every other cell is as before (R160, R163). -/
theorem State.sprite_cell_uncovered {s : State} {x y n : Nibble} (hi : s.SpriteInRange n) {r c : Nat}
    (h : ¬ s.spriteCovers x y n r c) : (s.sprite x y n).pix.cell r c = s.pix.cell r c := by
  have hn : n.toNat ≤ 32 := by have := n.isLt; omega
  rw [State.sprite, Canvas.drawSprite_eq, Canvas.drawAll_cell (spritePixels_distinct _ _ hn _ _),
    decide_eq_false (fun e => h ((State.sprite_pixels hi x y fun p => SameCell p (r, c)).1 e)), Bool.xor_false]

/-- The flag: a 1 bit of the sprite lands on a cell that held 1 before the instruction (R163). -/
theorem State.sprite_hit {s : State} {n : Nibble} (hi : s.SpriteInRange n) (x y : Nibble) :
    (s.sprite x y n).hit = true ↔ s.spriteCollides x y n := by
  have hn : n.toNat ≤ 32 := by have := n.isLt; omega
  rw [State.sprite, Canvas.drawSprite_eq, Canvas.drawAll_hit (spritePixels_distinct _ _ hn _ _), Bool.false_or,
    decide_eq_true_iff]
  exact State.sprite_pixels hi x y fun p => s.pix.cell p.1 p.2 = true

end Sys2Proof.Machine
end

