-- ==== Sys2Proof/Laws/PerInstr.lean ====
section
/-! SUPPORT. Statements made for every instruction, one lemma per constructor. `EncodedRow`: the word the encoder writes
(R84) is one that the instruction's row of the opcode map matches: `w & mask = match` (R76). -/

namespace Sys2Proof.Laws.EncodedRow

/-- The encoded word matches the instruction's own row. -/
def Statement (i : Instr) : Prop := encode i &&& i.rowMask = i.rowMatch

/-- The mask of a row keeps the category of the NNN format. -/
theorem formNNN_masked (c : Nibble) (a : Addr) : formNNN c a &&& 0xF000#16 = formNNN c 0 :=
  BitVec.eq_of_getLsbD_eq fun k hk => by
    have hm : ∀ k < 16, (0xF000#16).getLsbD k = decide (12 ≤ k) := by decide
    rw [BitVec.getLsbD_and, getLsbD_formNNN, getLsbD_formNNN, hm k hk]
    by_cases h : k < 12 <;> simp [h]; omega

/-- The mask of a row keeps the category of the XKK format. -/
theorem formXKK_masked_cat (c x : Nibble) (b : Byte) : formXKK c x b &&& 0xF000#16 = formXKK c 0 0 :=
  BitVec.eq_of_getLsbD_eq fun k hk => by
    have hm : ∀ k < 16, (0xF000#16).getLsbD k = decide (12 ≤ k) := by decide
    rw [BitVec.getLsbD_and, getLsbD_formXKK, getLsbD_formXKK, hm k hk]
    split_ifs <;> simp <;> omega

/-- The mask of a row keeps the category and the low byte of the XSS format. -/
theorem formXKK_masked_low (c x : Nibble) (b : Byte) : formXKK c x b &&& 0xF0FF#16 = formXKK c 0 b :=
  BitVec.eq_of_getLsbD_eq fun k hk => by
    have hm : ∀ k < 16, (0xF0FF#16).getLsbD k = (decide (12 ≤ k) || decide (k < 8)) := by decide
    rw [BitVec.getLsbD_and, getLsbD_formXKK, getLsbD_formXKK, hm k hk]
    split_ifs <;> simp_all <;> omega

/-- The mask of a row keeps the category and the low nibble of the XYS format. -/
theorem formXYN_masked_low (c x y n : Nibble) : formXYN c x y n &&& 0xF00F#16 = formXYN c 0 0 n :=
  BitVec.eq_of_getLsbD_eq fun k hk => by
    have hm : ∀ k < 16, (0xF00F#16).getLsbD k = (decide (12 ≤ k) || decide (k < 4)) := by decide
    rw [BitVec.getLsbD_and, getLsbD_formXYN, getLsbD_formXYN, hm k hk]
    split_ifs <;> simp_all <;> omega

/-- The mask of a row keeps the category of the XYN format. -/
theorem formXYN_masked_cat (c x y n : Nibble) : formXYN c x y n &&& 0xF000#16 = formXYN c 0 0 0 :=
  BitVec.eq_of_getLsbD_eq fun k hk => by
    have hm : ∀ k < 16, (0xF000#16).getLsbD k = decide (12 ≤ k) := by decide
    rw [BitVec.getLsbD_and, getLsbD_formXYN, getLsbD_formXYN, hm k hk]
    split_ifs <;> simp <;> omega

theorem cls : Statement .cls :=
  rfl
theorem ret : Statement .ret :=
  rfl
theorem jp (nnn : Addr) : Statement (.jp nnn) :=
  (formNNN_masked _ _).trans rfl
theorem call (nnn : Addr) : Statement (.call nnn) :=
  (formNNN_masked _ _).trans rfl
theorem seImm (x : Nibble) (kk : Byte) : Statement (.seImm x kk) :=
  (formXKK_masked_cat _ _ _).trans rfl
theorem sneImm (x : Nibble) (kk : Byte) : Statement (.sneImm x kk) :=
  (formXKK_masked_cat _ _ _).trans rfl
theorem seReg (x : Nibble) (y : Nibble) : Statement (.seReg x y) :=
  (formXYN_masked_low _ _ _ _).trans rfl
theorem sneReg (x : Nibble) (y : Nibble) : Statement (.sneReg x y) :=
  (formXYN_masked_low _ _ _ _).trans rfl
theorem ldImm (x : Nibble) (kk : Byte) : Statement (.ldImm x kk) :=
  (formXKK_masked_cat _ _ _).trans rfl
theorem addImm (x : Nibble) (kk : Byte) : Statement (.addImm x kk) :=
  (formXKK_masked_cat _ _ _).trans rfl
theorem ldReg (x : Nibble) (y : Nibble) : Statement (.ldReg x y) :=
  (formXYN_masked_low _ _ _ _).trans rfl
theorem orReg (x : Nibble) (y : Nibble) : Statement (.orReg x y) :=
  (formXYN_masked_low _ _ _ _).trans rfl
theorem andReg (x : Nibble) (y : Nibble) : Statement (.andReg x y) :=
  (formXYN_masked_low _ _ _ _).trans rfl
theorem xorReg (x : Nibble) (y : Nibble) : Statement (.xorReg x y) :=
  (formXYN_masked_low _ _ _ _).trans rfl
theorem addReg (x : Nibble) (y : Nibble) : Statement (.addReg x y) :=
  (formXYN_masked_low _ _ _ _).trans rfl
theorem subReg (x : Nibble) (y : Nibble) : Statement (.subReg x y) :=
  (formXYN_masked_low _ _ _ _).trans rfl
theorem shr (x : Nibble) (y : Nibble) : Statement (.shr x y) :=
  (formXYN_masked_low _ _ _ _).trans rfl
theorem subnReg (x : Nibble) (y : Nibble) : Statement (.subnReg x y) :=
  (formXYN_masked_low _ _ _ _).trans rfl
theorem shl (x : Nibble) (y : Nibble) : Statement (.shl x y) :=
  (formXYN_masked_low _ _ _ _).trans rfl
theorem ldI (nnn : Addr) : Statement (.ldI nnn) :=
  (formNNN_masked _ _).trans rfl
theorem jpV0 (nnn : Addr) : Statement (.jpV0 nnn) :=
  (formNNN_masked _ _).trans rfl
theorem rnd (x : Nibble) (kk : Byte) : Statement (.rnd x kk) :=
  (formXKK_masked_cat _ _ _).trans rfl
theorem drw (x : Nibble) (y : Nibble) (n : Nibble) : Statement (.drw x y n) :=
  (formXYN_masked_cat _ _ _ _).trans rfl
theorem skp (x : Nibble) : Statement (.skp x) :=
  (formXKK_masked_low _ _ _).trans rfl
theorem sknp (x : Nibble) : Statement (.sknp x) :=
  (formXKK_masked_low _ _ _).trans rfl
theorem ldVxDT (x : Nibble) : Statement (.ldVxDT x) :=
  (formXKK_masked_low _ _ _).trans rfl
theorem ldVxK (x : Nibble) : Statement (.ldVxK x) :=
  (formXKK_masked_low _ _ _).trans rfl
theorem ldDTVx (x : Nibble) : Statement (.ldDTVx x) :=
  (formXKK_masked_low _ _ _).trans rfl
theorem ldSTVx (x : Nibble) : Statement (.ldSTVx x) :=
  (formXKK_masked_low _ _ _).trans rfl
theorem addIVx (x : Nibble) : Statement (.addIVx x) :=
  (formXKK_masked_low _ _ _).trans rfl
theorem ldFVx (x : Nibble) : Statement (.ldFVx x) :=
  (formXKK_masked_low _ _ _).trans rfl
theorem ldBVx (x : Nibble) : Statement (.ldBVx x) :=
  (formXKK_masked_low _ _ _).trans rfl
theorem storeRegs (x : Nibble) : Statement (.storeRegs x) :=
  (formXKK_masked_low _ _ _).trans rfl
theorem loadRegs (x : Nibble) : Statement (.loadRegs x) :=
  (formXKK_masked_low _ _ _).trans rfl

end Sys2Proof.Laws.EncodedRow
end

