-- ==== Sys2Proof/Tests/Slice0.lean ====
section
/-! SUPPORT. Our own tests: the well-formedness smoke tests, one word of every row decoded, vectors of 95_test_vectors.md
(one step each), and for every statement with hypotheses a concrete state that meets them, clause by clause. -/

namespace Sys2Proof.Tests

open Sys2Proof.Machine

/-! ### Helpers -/

/-- One step on `s` with the word placed where the next instruction is fetched; `s` itself if the step stops. -/
def after (w : Nat) (s : State) : State :=
  match step (s.withFetchWord 16 w) with
  | .next t => t
  | .fault _ => s
  | .refused _ => s

/-- `s` with these registers. -/
def withRegs (s : State) (rs : List (Nibble × Byte)) : State := rs.foldl (fun s r => s.setReg r.1 r.2) s

/-- `s` with these bytes from `a` up. -/
def withBytes (s : State) (a : Nat) (bs : List Byte) : State := s.setMem (memWriteList s.mem a bs)

/-- The reset state with these registers. -/
def regs (rs : List (Nibble × Byte)) : State := withRegs State.reset rs

/-- The reset state with a sprite at 0x300, `I` on it, and these registers. -/
def sprite (bs : List Byte) (rs : List (Nibble × Byte)) : State := withRegs ((withBytes State.reset 0x300 bs).setI 0x300) rs

/-- The reset state with this stack depth, slot k holding 0x300 + k. -/
def depth (n : Fin 17) : State :=
  { State.reset with sp := n, stack := State.reset.stack.mapIdx fun k _ => BitVec.ofNat 16 (0x300 + k) }

/-- The lit cells of the first `c` columns of the rows `rs`, row by row. -/
def lit (s : State) (rs : List Nat) (c : Nat) : List (Nat × Nat) :=
  rs.flatMap fun r => ((List.range c).filter fun k => s.pixel r k).map fun k => (r, k)

/-! ### Well-formedness: a term each check refuses -/

/-- R245: 3584 bytes are accepted. -/
theorem test_image_of_3584_accepted : imageOk (List.replicate 3584 0) = true := by
  unfold imageOk; rw [List.length_replicate]; decide

/-- R245: 3585 bytes are refused. -/
theorem test_image_of_3585_refused : imageOk (List.replicate 3585 0) = false := by
  unfold imageOk; rw [List.length_replicate]; decide

/-- Memory: addresses out of order are refused. -/
theorem test_memory_unsorted_refused : Memory.wf ⟨glyphRom, [(0x301, 1), (0x300, 1)]⟩ = false := by decide

/-- Memory: a repeated address is refused. -/
theorem test_memory_repeat_refused : Memory.wf ⟨glyphRom, [(0x300, 1), (0x300, 2)]⟩ = false := by decide

/-- Memory: an entry equal to what the address reads as unlisted is refused. -/
theorem test_memory_redundant_refused : Memory.wf ⟨glyphRom, [(0x300, 0)]⟩ = false := by decide

/-- Memory: an address above 0xFFF is refused. -/
theorem test_memory_high_refused : Memory.wf ⟨glyphRom, [(0x1000, 1)]⟩ = false := by decide

/-- Memory: a canonical list is accepted. -/
theorem test_memory_canonical_accepted : Memory.wf ⟨glyphRom, [(0x300, 1), (0xFFF, 2)]⟩ = true := by decide

/-- R20: no ill-formed instruction can be written; the widest operands pass. -/
theorem test_widest_operands_well_formed :
    (Instr.drw 15 15 15).wellFormed = true ∧ (Instr.jp 0xFFF).wellFormed = true := by decide

/-! ### Decoding: one word of every row, written out from its pattern in R76 -/

theorem test_decode_0 : decodeTableWord 16 0x00E0 = some .cls ∧ decodeTableWord 16 0x00EE = some .ret := by decide
theorem test_decode_1_2 : decodeTableWord 16 0x1ABC = some (.jp 0xABC) ∧ decodeTableWord 16 0x2ABC = some (.call 0xABC) := by
  decide
theorem test_decode_3_4 :
    decodeTableWord 16 0x3A5C = some (.seImm 0xA 0x5C) ∧ decodeTableWord 16 0x4A5C = some (.sneImm 0xA 0x5C) := by decide
theorem test_decode_5_9 :
    decodeTableWord 16 0x5AB0 = some (.seReg 0xA 0xB) ∧ decodeTableWord 16 0x9AB0 = some (.sneReg 0xA 0xB) := by decide
theorem test_decode_6_7 :
    decodeTableWord 16 0x6005 = some (.ldImm 0 5) ∧ decodeTableWord 16 0x7003 = some (.addImm 0 3) := by decide
theorem test_decode_8_0_to_3 :
    [0x8AB0, 0x8AB1, 0x8AB2, 0x8AB3].map (decodeTableWord 16) =
      [some (.ldReg 0xA 0xB), some (.orReg 0xA 0xB), some (.andReg 0xA 0xB), some (.xorReg 0xA 0xB)] := by decide
theorem test_decode_8_4_to_E :
    [0x8AB4, 0x8AB5, 0x8AB6, 0x8AB7, 0x8ABE].map (decodeTableWord 16) =
      [some (.addReg 0xA 0xB), some (.subReg 0xA 0xB), some (.shr 0xA 0xB), some (.subnReg 0xA 0xB),
        some (.shl 0xA 0xB)] := by decide
theorem test_decode_A_B :
    decodeTableWord 16 0xA123 = some (.ldI 0x123) ∧ decodeTableWord 16 0xB123 = some (.jpV0 0x123) := by decide
theorem test_decode_C_D :
    decodeTableWord 16 0xCA5C = some (.rnd 0xA 0x5C) ∧ decodeTableWord 16 0xDABC = some (.drw 0xA 0xB 0xC) := by decide
theorem test_decode_E : decodeTableWord 16 0xEA9E = some (.skp 0xA) ∧ decodeTableWord 16 0xEAA1 = some (.sknp 0xA) := by decide
theorem test_decode_F_timers :
    [0xFA07, 0xFA0A, 0xFA15, 0xFA18].map (decodeTableWord 16) =
      [some (.ldVxDT 0xA), some (.ldVxK 0xA), some (.ldDTVx 0xA), some (.ldSTVx 0xA)] := by decide
theorem test_decode_F_memory :
    [0xFA1E, 0xFA29, 0xFA33, 0xFA55, 0xFA65].map (decodeTableWord 16) =
      [some (.addIVx 0xA), some (.ldFVx 0xA), some (.ldBVx 0xA), some (.storeRegs 0xA), some (.loadRegs 0xA)] := by decide

/-- The unknown words of 95_test_vectors.md 2.1. -/
theorem test_decode_unknown :
    [0x0000, 0x0123, 0x5121, 0x8128, 0x812F, 0x9121, 0xE19F, 0xF100, 0xFFFF].map (decodeTableWord 16) =
      List.replicate 9 none := by decide

/-- R76: no word matches two rows, since two rows differ under the mask they share. -/
theorem test_rows_disjoint : opcodeRows.Pairwise fun a b => a.1 &&& (a.2 &&& b.2) ≠ b.1 &&& (a.2 &&& b.2) := by decide

/-- R76: the map has 34 rows. -/
theorem test_34_rows : opcodeRows.length = 34 := by decide

/-! ### Reset (R36) and the glyph set -/

theorem test_reset_pc : State.reset.pc = 0x200 := by decide
theorem test_reset_glyph_seven : (List.range 5).map (fun k => State.reset.byteAt (0x073 + k)) = [0xF0, 0x10, 0x20, 0x40, 0x40] := by
  decide
theorem test_reset_around_the_glyphs : State.reset.byteAt 0x04F = 0 ∧ State.reset.byteAt 0x0A0 = 0 := by decide
/-- Another glyph set: a machine constructed with it holds it at 0x050 and up, and nowhere else. -/
theorem test_construct_with_another_glyph_set :
    ((State.construct (Vector.replicate 80 0x3C)).byteAt 0x050, (State.construct (Vector.replicate 80 0x3C)).byteAt 0x09F,
      (State.construct (Vector.replicate 80 0x3C)).byteAt 0x04F, (State.construct (Vector.replicate 80 0x3C)).byteAt 0x0A0) =
      (0x3C, 0x3C, 0, 0) := by decide

/-- A store over a glyph is read back, and storing the glyph's own byte again takes the entry off (R24). -/
theorem test_store_over_a_glyph :
    (withBytes State.reset 0x050 [0x01]).byteAt 0x050 = 0x01 ∧
      withBytes (withBytes State.reset 0x050 [0x01]) 0x050 [0xF0] = State.reset := by decide

/-! ### Category 0x0 and unknown words (95_test_vectors.md 2.1) -/

theorem test_cls_clears : (after 0x00E0 (State.reset.setPix (State.reset.pix.flip 3 5))).pixel 3 5 = false := by decide
theorem test_ret_empty : (after 0x00EE State.reset).halt = some .stackUnderflow ∧ (after 0x00EE State.reset).pc = 0x200 := by decide
theorem test_ret_pops : (after 0x00EE (depth 2)).pc = 0x301 ∧ (after 0x00EE (depth 2)).sp = 1 := by decide
theorem test_unknown_reported :
    (after 0x0123 State.reset).report = some { word := 0x0123, addr := 0x200 } ∧ (after 0x0123 State.reset).pc = 0x202 := by decide

/-! ### Jumps, calls, skips (2.2) -/

theorem test_jp : (after 0x1234 State.reset).pc = 0x234 := by decide
theorem test_call_from_15 : (after 0x2300 (depth 15)).stack[15] = 0x202 ∧ (after 0x2300 (depth 15)).sp = 16 := by decide
theorem test_call_from_16 : (after 0x2300 (depth 16)).halt = some .stackOverflow ∧ (after 0x2300 (depth 16)).pc = 0x200 := by decide
theorem test_seImm : (after 0x332A (regs [(3, 0x2A)])).pc = 0x204 ∧ (after 0x332A (regs [(3, 0x2B)])).pc = 0x202 := by decide
theorem test_sneImm : (after 0x432A (regs [(3, 0x2A)])).pc = 0x202 ∧ (after 0x432A State.reset).pc = 0x204 := by decide
theorem test_seReg : (after 0x5120 (regs [(1, 7), (2, 7)])).pc = 0x204 ∧ (after 0x5120 (regs [(1, 7), (2, 8)])).pc = 0x202 := by
  decide
theorem test_sneReg : (after 0x9120 (regs [(1, 7), (2, 8)])).pc = 0x204 ∧ (after 0x9110 (regs [(1, 7)])).pc = 0x202 := by decide
theorem test_jpV0_past_the_end : (after 0xBFFF (regs [(0, 0xFF)])).pc = 0x10FE := by decide

/-! ### Immediates (2.3) and the ALU (2.4, with VF = 0xAA before) -/

/-- V1, V2 and VF = 0xAA, as in the table of 2.4. -/
def alu (a b : Byte) : State := regs [(1, a), (2, b), (15, 0xAA)]

/-- V1 and VF after the word. -/
def v1vf (w : Nat) (s : State) : Byte × Byte := ((after w s).reg 1, (after w s).reg 15)

theorem test_ldImm : (after 0x6FAB State.reset).reg 15 = 0xAB := by decide
theorem test_addImm_no_flag : v1vf 0x7101 (regs [(1, 0xFF), (15, 0x55)]) = (0x00, 0x55) := by decide
theorem test_ldReg : v1vf 0x8120 (alu 0x01 0x5A) = (0x5A, 0xAA) := by decide
theorem test_or : v1vf 0x8121 (alu 0xF0 0x0F) = (0xFF, 0xAA) := by decide
theorem test_and : v1vf 0x8122 (alu 0xF3 0x3F) = (0x33, 0xAA) := by decide
theorem test_xor : v1vf 0x8123 (alu 0xFF 0x0F) = (0xF0, 0xAA) := by decide
theorem test_add_carry : v1vf 0x8124 (alu 0xC8 0x64) = (0x2C, 0x01) := by decide
theorem test_add_vf_destination : v1vf 0x8F14 (regs [(15, 0xF0), (1, 0x20)]) = (0x20, 0x01) := by decide
theorem test_sub_borrow : v1vf 0x8125 (alu 0x05 0x07) = (0xFE, 0x00) := by decide
theorem test_sub_equal : v1vf 0x8125 (alu 0x07 0x07) = (0x00, 0x01) := by decide
theorem test_subn : v1vf 0x8127 (alu 0x05 0x07) = (0x02, 0x01) := by decide
theorem test_subn_vf_operand : v1vf 0x81F7 (regs [(15, 0x09), (1, 0x04)]) = (0x05, 0x01) := by decide
theorem test_shr_ignores_y : v1vf 0x8126 (alu 0x05 0xFF) = (0x02, 0x01) := by decide
theorem test_shr_of_vf : (after 0x8F16 (regs [(15, 0x03)])).reg 15 = 0x01 := by decide
theorem test_shl : v1vf 0x810E (alu 0x81 0) = (0x02, 0x01) := by decide
theorem test_shl_of_vf : (after 0x8F1E (regs [(15, 0x81)])).reg 15 = 0x01 := by decide

/-! ### Index and random (2.5) -/

theorem test_ldI : (after 0xAFFF (State.reset.setI 0xFFFF)).i = 0x0FFF := by decide
theorem test_addI_past_0FFF : (after 0xF11E ((regs [(1, 1)]).setI 0x0FFF)).i = 0x1000 := by decide
theorem test_addI_wraps : (after 0xF11E ((regs [(1, 1)]).setI 0xFFFF)).i = 0x0000 := by decide
theorem test_ldF_low_nibble : (after 0xF129 (regs [(1, 0x1A)])).i = 0x0082 := by decide

/-- Any draw, `kk = 0`. -/
theorem test_rnd_masked_out : (after 0xC100 (regs [(1, 0xFF)])).reg 1 = 0x00 := by
  have h : ∀ r : Byte, r &&& 0 = 0 := by intro r; simp
  exact h _

/-! ### Draw (2.6) -/

theorem test_drw_wraps_columns :
    lit (after 0xD121 (sprite [0xFF] [(1, 63), (2, 0)])) [0, 1] 64 =
      [(0, 0), (0, 1), (0, 2), (0, 3), (0, 4), (0, 5), (0, 6), (0, 63)] := by decide
theorem test_drw_collision :
    lit (after 0xD121 { sprite [0xC0] [] with pix := State.reset.pix.flip 0 1 }) [0] 8 = [(0, 0)] ∧
      (after 0xD121 { sprite [0xC0] [] with pix := State.reset.pix.flip 0 1 }).reg 15 = 1 := by decide

/-! ### Keys (2.7) -/

theorem test_skp : (after 0xE49E ((regs [(4, 0x0A)]).setKeys 0x0400)).pc = 0x204 := by decide
theorem test_skp_index_not_masked : (after 0xE49E ((regs [(4, 0x1A)]).setKeys 0xFFFF)).pc = 0x202 := by decide
theorem test_sknp : (after 0xE4A1 ((regs [(4, 0x0A)]).setKeys 0x0400)).pc = 0x202 := by decide
theorem test_sknp_never_pressed : (after 0xE4A1 ((regs [(4, 0x10)]).setKeys 0xFFFF)).pc = 0x204 := by decide
theorem test_ldVxK_waits : (after 0xF30A State.reset).status = .waitKey ∧ (after 0xF30A State.reset).pc = 0x200 := by decide
theorem test_ldVxK_lowest : (after 0xF30A (State.reset.setKeys 0x0280)).reg 3 = 7 ∧
    (after 0xF30A (State.reset.setKeys 0x0280)).pc = 0x202 := by decide

/-! ### Timers (2.8) -/

theorem test_ldDTVx : (after 0xF215 (regs [(2, 0x3C)])).dt = 0x3C := by decide
theorem test_ldSTVx : (after 0xF218 (regs [(2, 0x05)])).st = 0x05 ∧ (after 0xF218 (regs [(2, 0x05)])).toneActive = true := by decide
theorem test_ldVxDT : (after 0xF207 (State.reset.setDT 0x3C)).reg 2 = 0x3C := by decide
theorem test_tick_clamps : (((State.reset.setDT 2).setST 0).tick.dt, ((State.reset.setDT 2).setST 0).tick.st) = (1, 0) := by decide

/-! ### Memory transfer and range faults (2.9) -/

theorem test_bcd_157 : (List.range 3).map (fun k => (after 0xF133 ((regs [(1, 157)]).setI 0x300)).byteAt (0x300 + k)) = [1, 5, 7] := by
  decide
theorem test_bcd_out_of_range : (after 0xF133 ((regs [(1, 1)]).setI 0xFFE)).halt = some .addressOutOfRange ∧
    (after 0xF133 ((regs [(1, 1)]).setI 0xFFE)).byteAt 0xFFF = 0 := by decide
theorem test_storeRegs_at_the_top :
    (List.range 4).map (fun k => (after 0xF355 ((regs [(0, 1), (1, 2), (2, 3), (3, 4)]).setI 0xFFC)).byteAt (0xFFC + k)) =
      [1, 2, 3, 4] := by decide
theorem test_storeRegs_no_partial_store : (after 0xF355 ((regs [(0, 1), (1, 2)]).setI 0xFFE)).byteAt 0xFFE = 0 := by decide
theorem test_loadRegs_inclusive :
    (after 0xF065 (sprite [0x10, 0x99] [(1, 0x77)])).reg 0 = 0x10 ∧ (after 0xF065 (sprite [0x10, 0x99] [(1, 0x77)])).reg 1 = 0x77 := by
  decide
theorem test_loadRegs_vf : (after 0xFF65 (sprite (List.replicate 15 0 ++ [0x1F]) [])).reg 15 = 0x1F := by decide

/-- The fetch of the last word (2.9): pc = 0xFFE, bytes 6A 55. -/
def lastWord : State := (withBytes State.reset 0xFFE [0x6A, 0x55]).setPc 0xFFE

theorem test_fetch_last_word : fetch lastWord = .ok 0x6A55 := by decide
theorem test_fetch_past_the_end : fetch (State.reset.setPc 0xFFF) = .error .addressOutOfRange := by decide
theorem test_fetch_odd_pc : fetch ((withBytes State.reset 0x203 [0x6B, 0xCC]).setPc 0x203) = .ok 0x6BCC := by decide

/-! ### Witnesses: a state and operands that meet the hypotheses of each statement, at the bounds of its clauses -/

theorem test_witness_EncodeOfDecodeIsTheWord : decodeWord 0x8FFE = .ok (.shl 15 15) := by rfl

theorem test_witness_LoaderPlacesTheImage :
    (List.replicate 3584 (0 : Byte)).length ≤ 3584 ∧ 3583 < (List.replicate 3584 (0 : Byte)).length ∧
      3584 < (List.replicate 3585 (0 : Byte)).length := by
  rw [List.length_replicate, List.length_replicate]; decide

theorem test_witness_StepRunsTheDecodedInstruction :
    lastWord.EngineTurn [] ∧ lastWord.Running ∧ lastWord.Fetchable ∧ decodeWord lastWord.wordAtPc = .ok (.ldImm 0xA 0x55) :=
  ⟨.inr ⟨rfl, rfl⟩, rfl, by unfold State.Fetchable; decide, by rfl⟩

theorem test_witness_EngineTurn_by_schedule :
    (State.reset.setSchedule [.engine, .tick]).EngineTurn [.tick] := .inl rfl

/-- The word 0x0000 matches no row of the opcode map. -/
theorem test_word_zero_matches_no_row : ∀ row ∈ opcodeRows, (0 : Word) &&& row.2 ≠ row.1 := by
  have h : ∀ row ∈ opcodeRows, row.1 ≠ 0#16 := by
    have h : opcodeRows.all (fun row => row.1 != 0#16) = true := by rfl
    intro row hr e
    have := List.all_eq_true.1 h row hr
    rw [e] at this
    exact absurd this (by decide)
  intro row hr e
  exact h row hr (e.symm.trans BitVec.zero_and)

theorem test_witness_UnknownWordsAreReportedAndSkipped :
    State.reset.EngineTurn [] ∧ State.reset.Running ∧ State.reset.Fetchable ∧
      ∀ row ∈ opcodeRows, State.reset.wordAtPc &&& row.2 ≠ row.1 :=
  ⟨.inr ⟨rfl, rfl⟩, rfl, by unfold State.Fetchable; decide, by
    have h : State.reset.wordAtPc = 0 := by rfl
    rw [h]; exact test_word_zero_matches_no_row⟩

theorem test_witness_FetchPastTheEndIsFatal :
    (State.reset.setPc 0xFFF).EngineTurn [] ∧ (State.reset.setPc 0xFFF).Running ∧ 0xFFE < (State.reset.setPc 0xFFF).pc.toNat :=
  ⟨.inr ⟨rfl, rfl⟩, rfl, by decide⟩

theorem test_witness_StoppedEngineStaysStopped :
    (State.reset.raise .stackOverflow).EngineTurn [] ∧ (State.reset.raise .stackOverflow).halt = some .stackOverflow :=
  ⟨.inr ⟨rfl, rfl⟩, rfl⟩

/-- A stopped machine whose next move is a tick, with a timer running. -/
def stoppedTicking : State := ((State.reset.setDT 2).raise .stackOverflow).setSchedule [.tick]

theorem test_witness_TickCountsBothTimersDown : stoppedTicking.schedule = .tick :: [] := rfl

theorem test_witness_HostWritesOnlyTheLatch :
    (State.reset.setSchedule [.setKeys 0x8001]).schedule = .setKeys 0x8001 :: [] := rfl

theorem test_witness_StatusSaysHowTheStepEnded :
    State.reset.EngineTurn [] ∧ State.reset.Running ∧ step State.reset = .next (State.reset.beginStep.skipUnknown 0) :=
  ⟨.inr ⟨rfl, rfl⟩, rfl, by rfl⟩

/-- LD V3,K at 0x200 with no key held: the wait side of `StatusSaysHowTheStepEnded`. -/
def waiting : State := withBytes State.reset 0x200 [0xF3, 0x0A]

theorem test_witness_StatusSaysHowTheStepEnded_wait :
    waiting.EngineTurn [] ∧ waiting.Running ∧ step waiting = .next waiting.beginStep.wait ∧ waiting.Fetchable ∧
      decodeWord waiting.wordAtPc = .ok (.ldVxK 3) ∧ ∀ k < 16, waiting.keys.getLsbD k = false :=
  ⟨.inr ⟨rfl, rfl⟩, rfl, by rfl, by unfold State.Fetchable; decide, by rfl, by decide⟩

theorem test_witness_RetPopsTheReturnAddress :
    (depth 0).sp.val = 0 ∧ (depth 1).sp.val = (0 : Fin 16).val + 1 ∧ (depth 16).sp.val = (15 : Fin 16).val + 1 := by decide

theorem test_witness_CallPushesTheReturnAddress :
    (depth 16).sp.val = 16 ∧ (depth 0).sp.val = (0 : Fin 16).val ∧ (depth 15).sp.val = (15 : Fin 16).val := by decide

theorem test_witness_CallThenRetResumesAfterTheCall : (depth 15).sp.val = (15 : Fin 16).val := by decide

/-- The last key held and no other; V0 = 15, V1 = 14, V2 = 16. -/
def lastKey : State := (regs [(0, 15), (1, 14), (2, 16)]).setKeys 0x8000

theorem test_witness_KeySkipsTestTheLatch :
    ((lastKey.reg 0).toNat ≤ 15 ∧ lastKey.keys.getLsbD (lastKey.reg 0).toNat = true) ∧
    ((lastKey.reg 1).toNat ≤ 15 ∧ lastKey.keys.getLsbD (lastKey.reg 1).toNat = false) ∧ 16 ≤ (lastKey.reg 2).toNat := by decide

theorem test_witness_flag_destinations : (1 : Nibble) ≠ 15 ∧ (14 : Nibble) ≠ 15 := by decide

theorem test_witness_RndMasksAFreshRandomByte : (0x0F : Byte).getLsbD 7 = false := by decide

theorem test_witness_KeyWaitTakesTheLowestKey :
    (15 < 16 ∧ lastKey.keys.getLsbD 15 = true ∧ ∀ j < 15, lastKey.keys.getLsbD j = false) ∧
    (0 < 16 ∧ (State.reset.setKeys 0xFFFF).keys.getLsbD 0 = true) ∧ ∀ k < 16, State.reset.keys.getLsbD k = false := by decide

/-- One byte 0x80 at 0xFFF, `I` on it, the origin at the last cell, which is lit. -/
def lastCell : State :=
  { withRegs ((withBytes State.reset 0xFFF [0x80]).setI 0xFFF) [(1, 63), (2, 31)] with pix := State.reset.pix.flip 31 63 }

theorem test_witness_DrwXorsTheSprite_in_range :
    lastCell.i.toNat + (1 : Nibble).toNat - 1 ≤ 0xFFF ∧ lastCell.spriteCovers 1 2 1 31 63 ∧ lastCell.spriteCollides 1 2 1 :=
  ⟨by decide, ⟨0, by decide, 0, by decide, by decide, by decide⟩, ⟨0, by decide, 0, by decide, by decide, by decide⟩⟩

theorem test_witness_DrwXorsTheSprite_no_rows :
    (0 : Nibble).toNat = 0 ∧ ¬ (State.reset.setI 0xFFFF).spriteCovers 1 2 0 0 0 ∧ ¬ (State.reset.setI 0xFFFF).spriteCollides 1 2 0 :=
  ⟨by decide, fun ⟨_, h, _⟩ => absurd h (Nat.not_lt_zero _), fun ⟨_, h, _⟩ => absurd h (Nat.not_lt_zero _)⟩

theorem test_witness_DrwXorsTheSprite_out_of_range :
    (2 : Nibble).toNat > 0 ∧ lastCell.i.toNat + (2 : Nibble).toNat - 1 > 0xFFF := by decide

theorem test_witness_DrwTwiceRestoresTheGrid :
    (1 : Nibble) ≠ 15 ∧ (2 : Nibble) ≠ 15 ∧ ((1 : Nibble).toNat = 0 ∨ lastCell.i.toNat + (1 : Nibble).toNat - 1 ≤ 0xFFF) := by decide

theorem test_witness_BcdStoresThreeDigits :
    (State.reset.setI 0xFFD).i.toNat + 2 ≤ 0xFFF ∧ (State.reset.setI 0xFFE).i.toNat + 2 > 0xFFF := by decide

theorem test_witness_StoreRegsDumpsTheBlock :
    (State.reset.setI 0xFFC).i.toNat + (3 : Nibble).toNat ≤ 0xFFF ∧ (State.reset.setI 0xFFD).i.toNat + (3 : Nibble).toNat > 0xFFF ∧
      (3 : Nibble).toNat ≤ (3 : Nibble).toNat := by decide

theorem test_witness_LoadRegsFillsTheBlock :
    (State.reset.setI 0xFF0).i.toNat + (15 : Nibble).toNat ≤ 0xFFF ∧ (State.reset.setI 0xFF1).i.toNat + (15 : Nibble).toNat > 0xFFF ∧
      (15 : Nibble).toNat ≤ (15 : Nibble).toNat := by decide

theorem test_witness_LoadAfterStoreRestoresTheBlock : (State.reset.setI 0xFF0).i.toNat + (15 : Nibble).toNat ≤ 0xFFF := by decide

/-- The block meets the next word: V0 and V1 whole, or V1 on its high byte. -/
theorem test_witness_StoredCodeIsFetchedNext :
    State.reset.pc.toNat + 2 ≤ 0xFFE ∧ (lastWord.setPc 0xFFC).pc.toNat + 2 ≤ 0xFFE ∧
      ((lastWord.setPc 0xFFC).setI 0xFFD).i.toNat + (2 : Nibble).toNat ≤ 0xFFF ∧
      ((lastWord.setPc 0xFFC).setI 0xFFD).i.toNat + 2 ≤ 0xFFF ∧ 1 ≤ (1 : Nibble).toNat ∧
      (State.reset.setI 0x202).i = (State.reset.setI 0x202).pc + 2 ∧
      (State.reset.setI 0x202).i.toNat + (1 : Nibble).toNat ≤ 0xFFF ∧ (State.reset.setI 0x202).i.toNat + 2 ≤ 0xFFF := by decide

theorem test_witness_invariants :
    waiting.MemoryCanonical ∧ waiting.PcBounded ∧ waiting.StatusAgrees ∧ step waiting = .next waiting.beginStep.wait :=
  ⟨by unfold State.MemoryCanonical; decide, ⟨by decide, fun _ h => absurd h (Nat.not_lt_zero _)⟩,
    fun _ => ⟨(fun h => nomatch h), (fun h => nomatch h)⟩, by rfl⟩

/-- The live slot of `PcBounded` is not empty either. -/
theorem test_witness_StepKeepsPcBounded_live_slot : (depth 1).PcBounded :=
  ⟨by decide, fun k hk => by have : k = 0 := Fin.ext (Nat.lt_one_iff.1 hk); subst this; decide⟩

theorem test_witness_FatalLatchIsSticky :
    stoppedTicking.halt = some .stackOverflow ∧ step stoppedTicking = .next (stoppedTicking.setSchedule []).tick := ⟨rfl, rfl⟩

/-- Every cause of `FatalConditionsArePreciseAndCaused` is met by a running state. -/
theorem test_witness_FatalConditionsArePreciseAndCaused :
    exec (.call 0x300) (depth 16) = .next ((depth 16).raise .stackOverflow) ∧
    exec .ret State.reset = .next (State.reset.raise .stackUnderflow) ∧
    exec (.drw 1 2 2) (State.reset.setI 0xFFF) = .next ((State.reset.setI 0xFFF).raise .addressOutOfRange) ∧
    exec (.ldBVx 1) (State.reset.setI 0xFFE) = .next ((State.reset.setI 0xFFE).raise .addressOutOfRange) ∧
    exec (.storeRegs 1) (State.reset.setI 0xFFF) = .next ((State.reset.setI 0xFFF).raise .addressOutOfRange) ∧
    exec (.loadRegs 1) (State.reset.setI 0xFFF) = .next ((State.reset.setI 0xFFF).raise .addressOutOfRange) :=
  ⟨rfl, rfl, rfl, rfl, rfl, rfl⟩

/-- The glyph region as constructed, and the last row of the last glyph. -/
theorem test_witness_LdFFindsTheGlyphOfTheRom :
    (∀ k : Fin 80, (regs [(1, 0xFF)]).byteAt (0x050 + k) = glyphRom[k]) ∧
      (79 : Fin 80).val = 5 * (((regs [(1, 0xFF)]).reg 1).toNat % 16) + 4 := by decide

/-- JP is no writer of any part but `pc`, and of the three kinds of register writers a register that each leaves. -/
theorem test_witness_EachPartHasItsWriters :
    exec (.jp 0x300) State.reset = .next (State.reset.setPc 0x300) ∧ writesReg (.jp 0x300) 0 = false ∧
      writesReg (.addReg 1 2) 14 = false ∧ writesReg (.drw 1 2 3) 14 = false ∧ writesReg (.loadRegs 14) 15 = false :=
  ⟨rfl, rfl, rfl, rfl, rfl⟩

theorem test_witness_VFHasItsWriters :
    exec (.ldImm 15 1) State.reset = .next ((State.reset.setReg 15 1).advance 2) ∧
      ((State.reset.setReg 15 1).advance 2).reg 15 ≠ State.reset.reg 15 := ⟨rfl, by decide⟩

theorem test_witness_PcGoesWhereTheTableSays :
    State.reset.Running ∧ exec (.jp 0x300) State.reset = .next (State.reset.setPc 0x300) ∧
      (State.reset.setPc 0x300).halt = none ∧ exec .ret State.reset = .next (State.reset.raise .stackUnderflow) ∧
      (State.reset.raise .stackUnderflow).halt ≠ none := ⟨rfl, rfl, rfl, rfl, by decide⟩

/-- A stack that agrees with `depth 1` in the live slot and differs above it. -/
theorem test_witness_DeadStackSlotsAreNeverObserved :
    (∀ k : Fin 16, k.val < (depth 1).sp.val → ((depth 1).stack.set 1 0x777)[k] = (depth 1).stack[k]) ∧
      (depth 1).stack.set 1 0x777 ≠ (depth 1).stack := by decide

theorem test_witness_OnlyKeyInstructionsReadTheLatch :
    (∀ x, Instr.cls ≠ .skp x) ∧ (∀ x, Instr.cls ≠ .sknp x) ∧ ∀ x, Instr.cls ≠ .ldVxK x := by decide

theorem test_witness_TicksCommuteWithOtherInstructions :
    (∀ x, Instr.ret ≠ .ldVxDT x) ∧ (∀ x, Instr.ret ≠ .ldDTVx x) ∧ ∀ x, Instr.ret ≠ .ldSTVx x := by decide

/-- JP 0x200 at 0x200 (95_test_vectors.md 2.2, word 0x1200). -/
def selfJump : State := withBytes State.reset 0x200 [0x12, 0x00]

theorem test_witness_SelfJumpStaysAtItsEnd : selfJump.EngineTurn [] ∧ selfJump.Ended :=
  ⟨.inr ⟨rfl, rfl⟩, rfl, by unfold State.Fetchable; decide, 0x200, by rfl, by decide⟩

/-! ### The host's probe -/

/-- The placed word is what the very next step runs, whatever the schedule and the latch were. -/
theorem test_withFetchWord_runs :
    step ((State.reset.raise .stackOverflow).withFetchWord 16 0x6005) =
      exec (.ldImm 0 5) (((State.reset.raise .stackOverflow).withFetchWord 16 0x6005).begun []) := by rfl

end Sys2Proof.Tests
end

section
/-! PROOFS. Frames: what is left unchanged composes over updates, and the frame of each of the two updates CLS is made of.
Then CLS itself (40_display_return.md R100). -/

namespace Sys2Proof.Machine

/-! ### Frames -/

theorem Part.Same.trans {s t u : State} {p : Part} (hst : p.Same s t) (htu : p.Same t u) : p.Same s u := by
  cases p <;> exact Eq.trans htu hst

/-- Two updates one after the other change only what one of them changes. -/
theorem OnlyChanges.trans {s t u : State} {l₁ l₂ : List Part} (hst : OnlyChanges s t l₁) (htu : OnlyChanges t u l₂) :
    OnlyChanges s u (l₁ ++ l₂) := fun p hp =>
  Part.Same.trans (hst p fun h => hp (List.mem_append_left _ h)) (htu p fun h => hp (List.mem_append_right _ h))

theorem onlyChanges_setPix (s : State) (d : Display) : OnlyChanges s (s.setPix d) [.display] := by
  intro p hp
  cases p with
  | display => exact absurd (List.mem_singleton.2 rfl) hp
  | _ => rfl

theorem onlyChanges_advance (s : State) (k : Word) : OnlyChanges s (s.advance k) [.pc] := by
  intro p hp
  cases p with
  | pc => exact absurd (List.mem_singleton.2 rfl) hp
  | _ => rfl

/-! ### CLS (R100) -/

theorem exec_cls (s : State) : exec .cls s = .next ((s.setPix Display.blank).advance 2) := rfl

/-- Settles O15: the state after CLS is the cleared grid and then the advance of `pc`, and the frames of the two compose. -/
theorem clsClearsTheGrid : Obligations.ClsClearsTheGrid := by
  intro s
  refine ⟨_, exec_cls s, fun r _ c _ => ?cleared, rfl, ?frame⟩
  case cleared => exact Display.cell_blank r c
  case frame => exact (onlyChanges_setPix s Display.blank).trans (onlyChanges_advance _ 2)

end Sys2Proof.Machine
end

section
/-! PROOFS. JP and the four compare-and-skip instructions (41_jump_call_skip.md R110, R112 to R115): each moves `pc` and
writes nothing else. -/

namespace Sys2Proof.Machine

theorem onlyChanges_setPc (s : State) (w : Word) : OnlyChanges s (s.setPc w) [.pc] := by
  intro p hp
  cases p with
  | pc => exact absurd (List.mem_singleton.2 rfl) hp
  | _ => rfl

/-- The 12-bit address keeps its value when it is zero-extended to the width of `pc` and `I` (R9, R73). -/
@[simp] theorem addrOperand_toNat (nnn : Addr) : (addrOperand nnn).toNat = nnn.toNat :=
  BitVec.toNat_setWidth_of_le (by decide)

/-! ### JP (R110) -/

theorem exec_jp (nnn : Addr) (s : State) : exec (.jp nnn) s = .next (s.setPc (addrOperand nnn)) := rfl

/-- Settles O17: JP is one write of `pc`, and the zero-extended address keeps its value. -/
theorem jpSetsPc : Obligations.JpSetsPc := fun nnn s =>
  ⟨_, exec_jp nnn s, addrOperand_toNat nnn, onlyChanges_setPc s _⟩

/-! ### The compare-and-skip instructions (R112 to R115) -/

/-- A skip moves `pc` by the distance `k` its condition selects, and writes nothing else. -/
theorem State.skipIf_moves_pc (s : State) {cond : Bool} {k : Word} (hk : (if cond then 4 else 2) = k) :
    ∃ t, s.skipIf cond = .next t ∧ t.pc = s.pc + k ∧ OnlyChanges s t [.pc] := by
  subst hk
  exact ⟨_, rfl, s.advance_pc _, onlyChanges_advance s _⟩

/-- The distance of a skip on equality. -/
theorem skip_distance_beq (a b : Byte) : (if a == b then 4 else 2 : Word) = if a = b then 4 else 2 := by
  simp only [beq_iff_eq]

/-- The distance of a skip on inequality. -/
theorem skip_distance_bne (a b : Byte) : (if a != b then 4 else 2 : Word) = if a = b then 2 else 4 := by
  simp only [bne_iff_ne, ne_eq, ite_not]

theorem exec_seImm (x : Nibble) (kk : Byte) (s : State) : exec (.seImm x kk) s = s.skipIf (s.reg x == kk) := rfl

theorem exec_sneImm (x : Nibble) (kk : Byte) (s : State) : exec (.sneImm x kk) s = s.skipIf (s.reg x != kk) := rfl

theorem exec_seReg (x y : Nibble) (s : State) : exec (.seReg x y) s = s.skipIf (s.reg x == s.reg y) := rfl

theorem exec_sneReg (x y : Nibble) (s : State) : exec (.sneReg x y) s = s.skipIf (s.reg x != s.reg y) := rfl

/-- Settles O20: each of the four is a skip, and its test is the stated comparison or the negation of it. -/
theorem compareSkipsAdvanceByFourOrTwo : Obligations.CompareSkipsAdvanceByFourOrTwo := by
  intro x y kk s
  rw [exec_seImm, exec_sneImm, exec_seReg, exec_sneReg]
  exact ⟨s.skipIf_moves_pc (skip_distance_beq ..), s.skipIf_moves_pc (skip_distance_bne ..),
    s.skipIf_moves_pc (skip_distance_beq ..), s.skipIf_moves_pc (skip_distance_bne ..)⟩

end Sys2Proof.Machine
end

section
/-! PROOFS. LD Vx, kk and ADD Vx, kk (42_immediate.md R120, R121): each is one register write and the advance of `pc`. -/

namespace Sys2Proof.Machine

/-! ### One register write -/

@[simp] theorem State.reg_setReg_same (s : State) (x : Nibble) (b : Byte) : (s.setReg x b).reg x = b := by
  rw [State.reg_setReg, if_pos rfl]

theorem State.reg_setReg_of_ne (s : State) {x r : Nibble} (b : Byte) (h : r ≠ x) : (s.setReg x b).reg r = s.reg r := by
  rw [State.reg_setReg, if_neg h]

theorem onlyChanges_setReg (s : State) (x : Nibble) (b : Byte) : OnlyChanges s (s.setReg x b) [.reg x] := by
  intro p hp
  cases p with
  | reg r => exact s.reg_setReg_of_ne b fun hr => hp (List.mem_singleton.2 (congrArg Part.reg hr))
  | _ => rfl

/-- An instruction that is one write of `Vx` leaves the byte there (in VF when `x = 15`), moves `pc` by 2, and changes
nothing else. -/
theorem State.setReg_done (s : State) (x : Nibble) (b : Byte) :
    ∃ t, (s.setReg x b).done = .next t ∧ t.reg x = b ∧ t.pc = s.pc + 2 ∧ OnlyChanges s t [.reg x, .pc] :=
  ⟨(s.setReg x b).advance 2, rfl, s.reg_setReg_same x b, rfl, (onlyChanges_setReg s x b).trans (onlyChanges_advance _ 2)⟩

/-! ### LD Vx, kk (R120) and ADD Vx, kk (R121) -/

theorem exec_ldImm (x : Nibble) (kk : Byte) (s : State) : exec (.ldImm x kk) s = (s.setReg x kk).done := rfl

theorem exec_addImm (x : Nibble) (kk : Byte) (s : State) : exec (.addImm x kk) s = (s.setReg x (s.reg x + kk)).done := rfl

/-- Settles O23: LD Vx, kk is one write of `Vx`, and the law of such a write has no exception at `x = 15`. -/
theorem ldImmLoadsTheByte : Obligations.LdImmLoadsTheByte := by
  intro x kk s
  rw [exec_ldImm]
  exact s.setReg_done x kk

/-- Settles O24: ADD Vx, kk is one write of `Vx`, and the sum of two bytes is the sum of their values modulo 256. -/
theorem addImmWrapsWithoutAFlag : Obligations.AddImmWrapsWithoutAFlag := by
  intro x kk s
  obtain ⟨t, hexec, hreg, hpc, hframe⟩ := s.setReg_done x (s.reg x + kk)
  have hsum : (t.reg x).toNat = ((s.reg x).toNat + kk.toNat) % 256 := by rw [hreg, BitVec.toNat_add]
  exact ⟨t, (exec_addImm x kk s).trans hexec, hsum, hpc, hframe⟩

end Sys2Proof.Machine
end

section
/-! PROOFS. ADD, SUB, SUBN, SHR and SHL on registers (43_alu.md R134 to R138): each writes its result to `Vx`, then its flag to
VF, and advances `pc`. -/

namespace Sys2Proof.Machine

/-! ### A result and its flag, the flag last (R21) -/

theorem onlyChanges_setResultAndFlag (s : State) (x : Nibble) (b : Byte) (flag : Bool) :
    OnlyChanges s (s.setResultAndFlag x b flag) [.reg x, .reg 15] :=
  (onlyChanges_setReg s x b).trans (onlyChanges_setReg _ 15 _)

theorem State.reg_setResultAndFlag_flag (s : State) (x : Nibble) (b : Byte) (flag : Bool) :
    ((s.setResultAndFlag x b flag).reg 15).toNat = flag.toNat := by
  rw [State.reg_setResultAndFlag, if_pos rfl]
  cases flag <;> rfl

theorem State.reg_setResultAndFlag_result (s : State) {x : Nibble} (b : Byte) (flag : Bool) (hx : x ≠ 15) :
    (s.setResultAndFlag x b flag).reg x = b := by
  rw [State.reg_setResultAndFlag, if_neg hx, if_pos rfl]

/-- An instruction that is one result and its flag leaves the flag's value in VF, and the result's value in `Vx` unless `Vx` is
VF itself; it moves `pc` by 2 and changes nothing else. -/
theorem State.setResultAndFlag_done (s : State) (x : Nibble) {b : Byte} {flag : Bool} {result bit : Nat}
    (hresult : b.toNat = result) (hbit : flag.toNat = bit) :
    ∃ t, (s.setResultAndFlag x b flag).done = .next t ∧ (x ≠ 15 → (t.reg x).toNat = result) ∧ (t.reg 15).toNat = bit ∧
      t.pc = s.pc + 2 ∧ OnlyChanges s t [.reg x, .reg 15, .pc] :=
  ⟨(s.setResultAndFlag x b flag).advance 2, rfl,
    fun hx => (congrArg BitVec.toNat (s.reg_setResultAndFlag_result b flag hx)).trans hresult,
    (s.reg_setResultAndFlag_flag x b flag).trans hbit, rfl,
    (onlyChanges_setResultAndFlag s x b flag).trans (onlyChanges_advance _ 2)⟩

/-! ### The flags as numbers (R22, R139) -/

theorem carryOut_toNat (a b : Byte) : (carryOut a b).toNat = if 255 < a.toNat + b.toNat then 1 else 0 :=
  Bool.cond_decide ..

theorem noBorrow_toNat (a b : Byte) : (noBorrow a b).toNat = if b.toNat ≤ a.toNat then 1 else 0 :=
  Bool.cond_decide ..

theorem shiftedOutRight_toNat (a : Byte) : (shiftedOutRight a).toNat = a.toNat % 2 := by
  rw [shiftedOutRight, BitVec.getLsbD, Nat.toNat_testBit, Nat.pow_zero, Nat.div_one]

/-- Bit 7 is the whole quotient by 128, because a byte is below 256. -/
theorem shiftedOutLeft_toNat (a : Byte) : (shiftedOutLeft a).toNat = a.toNat / 128 := by
  have hquot : a.toNat / 128 < 2 := by have := a.isLt; omega
  rw [shiftedOutLeft, BitVec.getLsbD, Nat.toNat_testBit]
  exact Nat.mod_eq_of_lt hquot

/-! ### The results as numbers -/

/-- The wrapping difference of two bytes, in the form of R135 and R137. -/
theorem byte_sub_toNat (a b : Byte) : (a - b).toNat = (a.toNat + 256 - b.toNat) % 256 := by
  have hb := b.isLt
  rw [BitVec.toNat_sub]
  congr 1
  omega

theorem byte_shiftRight_one_toNat (a : Byte) : (a >>> 1).toNat = a.toNat / 2 := by
  rw [BitVec.toNat_ushiftRight, Nat.shiftRight_one]

theorem byte_shiftLeft_one_toNat (a : Byte) : (a <<< 1).toNat = a.toNat * 2 % 256 := by
  rw [BitVec.toNat_shiftLeft, Nat.shiftLeft_eq, Nat.pow_one]

/-! ### The five instructions (R134 to R138) -/

theorem exec_addReg (x y : Nibble) (s : State) :
    exec (.addReg x y) s = (s.setResultAndFlag x (s.reg x + s.reg y) (carryOut (s.reg x) (s.reg y))).done := rfl

theorem exec_subReg (x y : Nibble) (s : State) :
    exec (.subReg x y) s = (s.setResultAndFlag x (s.reg x - s.reg y) (noBorrow (s.reg x) (s.reg y))).done := rfl

theorem exec_subnReg (x y : Nibble) (s : State) :
    exec (.subnReg x y) s = (s.setResultAndFlag x (s.reg y - s.reg x) (noBorrow (s.reg y) (s.reg x))).done := rfl

/-- The right-hand side does not name `y` (R80). -/
theorem exec_shr (x y : Nibble) (s : State) :
    exec (.shr x y) s = (s.setResultAndFlag x (s.reg x >>> 1) (shiftedOutRight (s.reg x))).done := rfl

/-- The right-hand side does not name `y` (R80). -/
theorem exec_shl (x y : Nibble) (s : State) :
    exec (.shl x y) s = (s.setResultAndFlag x (s.reg x <<< 1) (shiftedOutLeft (s.reg x))).done := rfl

/-- Settles O27: ADD writes the sum and then the carry, both of the operands before the instruction. -/
theorem addRegSetsTheCarry : Obligations.AddRegSetsTheCarry := by
  intro x y s
  rw [exec_addReg]
  exact s.setResultAndFlag_done x (BitVec.toNat_add ..) (carryOut_toNat ..)

/-- Settles O28: SUB writes the difference `Vx - Vy` and then its "no borrow". -/
theorem subRegSetsNoBorrow : Obligations.SubRegSetsNoBorrow := by
  intro x y s
  rw [exec_subReg]
  exact s.setResultAndFlag_done x (byte_sub_toNat ..) (noBorrow_toNat ..)

/-- Settles O29: SUBN is SUB with the operands exchanged, in the difference and in the flag. -/
theorem subnRegSetsNoBorrow : Obligations.SubnRegSetsNoBorrow := by
  intro x y s
  rw [exec_subnReg]
  exact s.setResultAndFlag_done x (byte_sub_toNat ..) (noBorrow_toNat ..)

/-- Settles O30: SHR writes half of `Vx` and then its parity; the equation of SHR is the same for every `y`. -/
theorem shrShiftsOutBitZero : Obligations.ShrShiftsOutBitZero := by
  intro x y s
  refine ⟨?effect, fun y' => (exec_shr x y' s).trans (exec_shr x y s).symm⟩
  case effect =>
    rw [exec_shr]
    exact s.setResultAndFlag_done x (byte_shiftRight_one_toNat _) (shiftedOutRight_toNat _)

/-- Settles O31: SHL writes twice `Vx` modulo 256 and then its top bit; the equation of SHL is the same for every `y`. -/
theorem shlShiftsOutBitSeven : Obligations.ShlShiftsOutBitSeven := by
  intro x y s
  refine ⟨?effect, fun y' => (exec_shl x y' s).trans (exec_shl x y s).symm⟩
  case effect =>
    rw [exec_shl]
    exact s.setResultAndFlag_done x (byte_shiftLeft_one_toNat _) (shiftedOutLeft_toNat _)

end Sys2Proof.Machine
end

section
/-! PROOFS. LD I, nnn (44_index_jump_random.md R150): one write of `I` and the advance of `pc`. -/

namespace Sys2Proof.Machine

/-! ### One write of the index register -/

theorem onlyChanges_setI (s : State) (w : Word) : OnlyChanges s (s.setI w) [.index] := by
  intro p hp
  cases p with
  | index => exact absurd (List.mem_singleton.2 rfl) hp
  | _ => rfl

/-- An instruction that is one write of `I` leaves the word there, moves `pc` by 2, and changes nothing else. -/
theorem State.setI_done (s : State) (w : Word) :
    ∃ t, (s.setI w).done = .next t ∧ t.i = w ∧ t.pc = s.pc + 2 ∧ OnlyChanges s t [.index, .pc] :=
  ⟨(s.setI w).advance 2, rfl, s.setI_i w, rfl, (onlyChanges_setI s w).trans (onlyChanges_advance _ 2)⟩

/-! ### LD I, nnn (R150) -/

theorem exec_ldI (nnn : Addr) (s : State) : exec (.ldI nnn) s = (s.setI (addrOperand nnn)).done := rfl

/-- Settles O32: LD I, nnn is one write of `I`, and the zero-extended address keeps its value, so `I[15:12]` become 0. -/
theorem ldISetsTheIndex : Obligations.LdISetsTheIndex := by
  intro nnn s
  obtain ⟨t, hexec, hindex, hpc, hframe⟩ := s.setI_done (addrOperand nnn)
  have hvalue : t.i.toNat = nnn.toNat := by rw [hindex, addrOperand_toNat]
  exact ⟨t, (exec_ldI nnn s).trans hexec, hvalue, hpc, hframe⟩

end Sys2Proof.Machine
end

section
/-! PROOFS. SKP and SKNP (46_keypad_skip.md R170, R171): each is a skip on `Pressed(Vx)` (R172) or on its negation. -/

namespace Sys2Proof.Machine

/-! ### Pressed (R172) -/

/-- A byte that names one of the 16 keys is pressed exactly when the latch holds that key. -/
theorem State.pressed_of_le (s : State) {b : Byte} (h : b.toNat ≤ 15) : s.pressed b = s.keys.getLsbD b.toNat := by
  have hkey : b.toNat < Config.numKeys := Nat.lt_succ_of_le h
  rw [State.pressed, decide_eq_true hkey, Bool.true_and]

/-- A byte of 16 or more names no key, and its low nibble does not stand for one. -/
theorem State.pressed_of_ge (s : State) {b : Byte} (h : 16 ≤ b.toNat) : s.pressed b = false := by
  have hkey : ¬ b.toNat < Config.numKeys := Nat.not_lt_of_le h
  rw [State.pressed, decide_eq_false hkey, Bool.false_and]

/-! ### SKP (R170) and SKNP (R171) -/

theorem exec_skp (x : Nibble) (s : State) : exec (.skp x) s = s.skipIf (s.pressed (s.reg x)) := rfl

theorem exec_sknp (x : Nibble) (s : State) : exec (.sknp x) s = s.skipIf (!s.pressed (s.reg x)) := rfl

/-- A skip whose condition is a function of `Pressed(b)` moves `pc` by one distance for a held key, and by another for a
released key and for a byte that names no key. -/
theorem State.skipIf_pressed (s : State) (b : Byte) {cond : Bool → Bool} {held released : Word}
    (hheld : (if cond true then 4 else 2) = held) (hreleased : (if cond false then 4 else 2) = released) :
    ∃ t, s.skipIf (cond (s.pressed b)) = .next t ∧
      (b.toNat ≤ 15 ∧ s.keys.getLsbD b.toNat = true → t.pc = s.pc + held) ∧
      (b.toNat ≤ 15 ∧ s.keys.getLsbD b.toNat = false → t.pc = s.pc + released) ∧
      (16 ≤ b.toNat → t.pc = s.pc + released) ∧ OnlyChanges s t [.pc] := by
  obtain ⟨t, hexec, hpc, hframe⟩ := s.skipIf_moves_pc (cond := cond (s.pressed b)) rfl
  refine ⟨t, hexec, ?held, ?released, ?noKey, hframe⟩
  case held =>
    rintro ⟨hle, hkey⟩
    rw [hpc, s.pressed_of_le hle, hkey, hheld]
  case released =>
    rintro ⟨hle, hkey⟩
    rw [hpc, s.pressed_of_le hle, hkey, hreleased]
  case noKey =>
    intro hge
    rw [hpc, s.pressed_of_ge hge, hreleased]

/-- Settles O21: SKP skips on `Pressed(Vx)` itself and SKNP on its negation, so the two distances are exchanged. -/
theorem keySkipsTestTheLatch : Obligations.KeySkipsTestTheLatch := by
  intro x s
  rw [exec_skp, exec_sknp]
  exact ⟨s.skipIf_pressed (s.reg x) (cond := id) rfl rfl, s.skipIf_pressed (s.reg x) (cond := not) rfl rfl⟩

end Sys2Proof.Machine
end

section
/-! PROOFS. LD Vx, DT; LD DT, Vx and LD ST, Vx (47_timer_key.md R180, R182, R183): each is one copy between a register and
a timer and the advance of `pc`. -/

namespace Sys2Proof.Machine

/-! ### One write of a timer -/

theorem onlyChanges_setDT (s : State) (b : Byte) : OnlyChanges s (s.setDT b) [.delay] := by
  intro p hp
  cases p with
  | delay => exact absurd (List.mem_singleton.2 rfl) hp
  | _ => rfl

theorem onlyChanges_setST (s : State) (b : Byte) : OnlyChanges s (s.setST b) [.sound] := by
  intro p hp
  cases p with
  | sound => exact absurd (List.mem_singleton.2 rfl) hp
  | _ => rfl

/-- An instruction that is one write of `DT` leaves the byte there, moves `pc` by 2, and changes nothing else. -/
theorem State.setDT_done (s : State) (b : Byte) :
    ∃ t, (s.setDT b).done = .next t ∧ t.dt = b ∧ t.pc = s.pc + 2 ∧ OnlyChanges s t [.delay, .pc] :=
  ⟨(s.setDT b).advance 2, rfl, s.setDT_dt b, rfl, (onlyChanges_setDT s b).trans (onlyChanges_advance _ 2)⟩

/-- An instruction that is one write of `ST` leaves the byte there, moves `pc` by 2, and changes nothing else. -/
theorem State.setST_done (s : State) (b : Byte) :
    ∃ t, (s.setST b).done = .next t ∧ t.st = b ∧ t.pc = s.pc + 2 ∧ OnlyChanges s t [.sound, .pc] :=
  ⟨(s.setST b).advance 2, rfl, s.setST_st b, rfl, (onlyChanges_setST s b).trans (onlyChanges_advance _ 2)⟩

/-- The tone is a function of `ST` alone: it sounds exactly while `ST` is not zero (R217). -/
theorem State.toneActive_eq_decide (s : State) : s.toneActive = decide (s.st ≠ 0) :=
  Bool.eq_iff_iff.2 (bne_iff_ne.trans decide_eq_true_iff.symm)

/-! ### LD Vx, DT (R180), LD DT, Vx (R182) and LD ST, Vx (R183) -/

theorem exec_ldVxDT (x : Nibble) (s : State) : exec (.ldVxDT x) s = (s.setReg x s.dt).done := rfl

theorem exec_ldDTVx (x : Nibble) (s : State) : exec (.ldDTVx x) s = (s.setDT (s.reg x)).done := rfl

theorem exec_ldSTVx (x : Nibble) (s : State) : exec (.ldSTVx x) s = (s.setST (s.reg x)).done := rfl

/-- Settles O37: each of the three is one write, whose frame keeps the timers it does not name, and the tone, being a
function of `ST`, follows the byte LD ST, Vx copies. -/
theorem timerMovesCopy : Obligations.TimerMovesCopy := by
  intro x s
  rw [exec_ldVxDT, exec_ldDTVx, exec_ldSTVx]
  refine ⟨s.setReg_done x s.dt, s.setDT_done (s.reg x), ?sound⟩
  case sound =>
    obtain ⟨t, hexec, hst, hpc, hframe⟩ := s.setST_done (s.reg x)
    have htone : t.toneActive = decide (s.reg x ≠ 0) := by rw [t.toneActive_eq_decide, hst]
    exact ⟨t, hexec, hst, htone, hpc, hframe⟩

end Sys2Proof.Machine
end

section
/-! PROOFS. The decoder and the encoder (30_encoding.md R71 to R84): each undoes the other, and the decoder reads a word exactly
if a row of the opcode map matches it. -/

namespace Sys2Proof

/-! ### A word put together from its fields, at a known category and sub-opcode -/

theorem formNNN_of_fields {w : Word} {c : Nibble} (hc : fieldCat w = c) : formNNN c (fieldNNN w) = w := by
  rw [← hc, formNNN_fields]

theorem formXKK_of_fields {w : Word} {c : Nibble} {b : Byte} (hc : fieldCat w = c) (hb : fieldKK w = b) :
    formXKK c (fieldX w) b = w := by
  rw [← hc, ← hb, formXKK_fields]

theorem formXYN_of_fields {w : Word} {c n : Nibble} (hc : fieldCat w = c) (hn : fieldN w = n) :
    formXYN c (fieldX w) (fieldY w) n = w := by
  rw [← hc, ← hn, formXYN_fields]

/-! ### Decode after encode -/

theorem decodeWord_encode (i : Instr) : decodeWord (encode i) = .ok i := by
  cases i with
  | cls | ret => rfl
  | _ => simp [encode, decodeWord]

/-- Decoding the two bytes of a word is decoding the word, and leaves what follows them. -/
theorem decode_bytes_append (w : Word) (rest : List Byte) {i : Instr} (h : decodeWord w = .ok i) :
    decode ([highByte w, lowByte w] ++ rest) = .ok (i, rest) := by
  simp only [List.cons_append, List.nil_append, decode, wordOfBytes_high_low, h]

/-- Settles O2: the two bytes of an instruction make up its word again, and each format gives its fields back. -/
theorem decodeOfEncodeIsTheInstruction : Obligations.DecodeOfEncodeIsTheInstruction := fun i rest =>
  decode_bytes_append (encode i) rest (decodeWord_encode i)

/-! ### Encode after decode -/

/-- Every word is the encoding of the instruction it decodes to, or it is `Unknown`: in each branch of the decoder the word
is made of its fields at the branch's category and sub-opcode. -/
theorem decodeWord_ok_or_unknown (w : Word) :
    (∃ i, decodeWord w = .ok i ∧ encode i = w) ∨ decodeWord w = .error (.unknown w) := by
  unfold decodeWord
  split
  case h_1 =>
    split_ifs with hcls hret
    · exact .inl ⟨.cls, rfl, hcls.symm⟩
    · exact .inl ⟨.ret, rfl, hret.symm⟩
    · exact .inr rfl
  case h_2 _ hc | h_3 _ hc | h_11 _ hc | h_12 _ hc => exact .inl ⟨_, rfl, formNNN_of_fields hc⟩
  case h_4 _ hc | h_5 _ hc | h_7 _ hc | h_8 _ hc | h_13 _ hc => exact .inl ⟨_, rfl, formXKK_of_fields hc rfl⟩
  case h_14 _ hc => exact .inl ⟨_, rfl, formXYN_of_fields hc rfl⟩
  case h_6 _ hc | h_10 _ hc =>
    split_ifs with hn
    · exact .inl ⟨_, rfl, formXYN_of_fields hc hn⟩
    · exact .inr rfl
  case h_9 _ hc =>
    split
    case h_10 => exact .inr rfl
    all_goals exact .inl ⟨_, rfl, formXYN_of_fields hc ‹_›⟩
  case h_15 _ hc =>
    split
    case h_3 => exact .inr rfl
    all_goals exact .inl ⟨_, rfl, formXKK_of_fields hc ‹_›⟩
  case h_16 h0 h1 h2 h3 h4 h5 h6 h7 h8 h9 hA hB hC hD hE =>
    have hc : fieldCat w = 0xF := nibble_eq_fifteen _ fun k hk => by
      interval_cases k <;> assumption
    split
    case h_10 => exact .inr rfl
    all_goals exact .inl ⟨_, rfl, formXKK_of_fields hc ‹_›⟩

theorem encode_of_decodeWord {w : Word} {i : Instr} (h : decodeWord w = .ok i) : encode i = w := by
  rcases decodeWord_ok_or_unknown w with ⟨j, hj, hw⟩ | hu
  · rwa [Except.ok.inj (h.symm.trans hj)]
  · simp [hu] at h

/-- Settles O3: a word that is not `Unknown` is the encoding of the instruction it decodes to. -/
theorem encodeOfDecodeIsTheWord : Obligations.EncodeOfDecodeIsTheWord := fun _ _ => encode_of_decodeWord

/-! ### The rows of the opcode map (R76) -/

theorem row_mem_opcodeRows (i : Instr) : (i.rowMatch, i.rowMask) ∈ opcodeRows := by
  cases i <;> simp [opcodeRows, Instr.rowMatch, Instr.rowMask]

/-- Under the row's mask the word of an instruction is the row's match. -/
theorem encode_and_rowMask (i : Instr) : encode i &&& i.rowMask = i.rowMatch := by
  cases i with
  | cls | ret => rfl
  | jp | call | ldI | jpV0 => exact (Laws.EncodedRow.formNNN_masked ..).trans rfl
  | seImm | sneImm | ldImm | addImm | rnd => exact (Laws.EncodedRow.formXKK_masked_cat ..).trans rfl
  | drw => exact (Laws.EncodedRow.formXYN_masked_cat ..).trans rfl
  | seReg | sneReg | ldReg | orReg | andReg | xorReg | addReg | subReg | shr | subnReg | shl =>
    exact (Laws.EncodedRow.formXYN_masked_low ..).trans rfl
  | _ => exact (Laws.EncodedRow.formXKK_masked_low ..).trans rfl

/-- One instruction of each row, in the order of the opcode map. -/
def rowInstrs : List Instr :=
  [.cls, .ret, .jp 0, .call 0, .seImm 0 0, .sneImm 0 0, .seReg 0 0, .sneReg 0 0, .ldImm 0 0, .addImm 0 0, .ldReg 0 0, .orReg 0 0,
    .andReg 0 0, .xorReg 0 0, .addReg 0 0, .subReg 0 0, .shr 0 0, .subnReg 0 0, .shl 0 0, .ldI 0, .jpV0 0, .rnd 0 0, .drw 0 0 0,
    .skp 0, .sknp 0, .ldVxDT 0, .ldVxK 0, .ldDTVx 0, .ldSTVx 0, .addIVx 0, .ldFVx 0, .ldBVx 0, .storeRegs 0, .loadRegs 0]

theorem opcodeRows_eq_map : opcodeRows = rowInstrs.map fun i => (i.rowMatch, i.rowMask) := rfl

/-! ### Words that agree under a row's mask agree in the fields the row fixes -/

theorem fieldCat_eq_of_and_F000 {w u : Word} (h : w &&& 0xF000#16 = u &&& 0xF000#16) : fieldCat w = fieldCat u := by
  rw [← formNNN_fields w, ← formNNN_fields u, Laws.EncodedRow.formNNN_masked, Laws.EncodedRow.formNNN_masked] at h
  simpa using congrArg fieldCat h

theorem fields_eq_of_and_F00F {w u : Word} (h : w &&& 0xF00F#16 = u &&& 0xF00F#16) :
    fieldCat w = fieldCat u ∧ fieldN w = fieldN u := by
  rw [← formXYN_fields w, ← formXYN_fields u, Laws.EncodedRow.formXYN_masked_low,
    Laws.EncodedRow.formXYN_masked_low] at h
  exact ⟨by simpa using congrArg fieldCat h, by simpa using congrArg fieldN h⟩

theorem fields_eq_of_and_F0FF {w u : Word} (h : w &&& 0xF0FF#16 = u &&& 0xF0FF#16) :
    fieldCat w = fieldCat u ∧ fieldKK w = fieldKK u := by
  rw [← formXKK_fields w, ← formXKK_fields u, Laws.EncodedRow.formXKK_masked_low,
    Laws.EncodedRow.formXKK_masked_low] at h
  exact ⟨by simpa using congrArg fieldCat h, by simpa using congrArg fieldKK h⟩

/-- A word that matches a row has the category and the sub-opcode of the row's instructions, and these are all the decoder
asks of it. -/
theorem decodeWord_of_row {w : Word} {i : Instr} (h : w &&& i.rowMask = i.rowMatch) : ∃ j, decodeWord w = .ok j := by
  rw [← encode_and_rowMask i] at h
  cases i with
  | cls | ret =>
    have hw : w = _ := (BitVec.and_allOnes (x := w)).symm.trans h
    exact hw ▸ ⟨_, rfl⟩
  | jp | call | ldI | jpV0 | seImm | sneImm | ldImm | addImm | rnd | drw =>
    have hcat := fieldCat_eq_of_and_F000 h
    simp [decodeWord, encode, hcat]
  | seReg | sneReg | ldReg | orReg | andReg | xorReg | addReg | subReg | shr | subnReg | shl =>
    obtain ⟨hcat, hn⟩ := fields_eq_of_and_F00F h
    simp [decodeWord, encode, hcat, hn]
  | skp | sknp | ldVxDT | ldVxK | ldDTVx | ldSTVx | addIVx | ldFVx | ldBVx | storeRegs | loadRegs =>
    obtain ⟨hcat, hkk⟩ := fields_eq_of_and_F0FF h
    simp [decodeWord, encode, hcat, hkk]

theorem not_row_of_unknown {w : Word} {r : Reject} (hu : decodeWord w = .error r) :
    ∀ row ∈ opcodeRows, w &&& row.2 ≠ row.1 := by
  rw [opcodeRows_eq_map, List.forall_mem_map]
  intro i _ hmatch
  obtain ⟨j, hj⟩ := decodeWord_of_row hmatch
  simp [hu] at hj

/-- Settles O4: a word that decodes is the encoding of its instruction, which matches the instruction's row, and a word that
matched a row would decode. -/
theorem decoderFollowsTheOpcodeMap : Obligations.DecoderFollowsTheOpcodeMap := by
  intro w
  rcases decodeWord_ok_or_unknown w with ⟨i, hi, hw⟩ | hu
  · exact .inl ⟨i, hi, row_mem_opcodeRows i, hw ▸ encode_and_rowMask i⟩
  · exact .inr ⟨hu, not_row_of_unknown hu⟩

/-- Settles O1: the nine instruction words and the two refused inputs are closed, and the decoder evaluates on them. -/
theorem knownWordsDecode : Obligations.KnownWordsDecode := by
  refine ⟨?_, ?_, ?_, ?_, ?_, ?_, ?_, ?_, ?_, ?_, ?_⟩ <;> rfl

end Sys2Proof
end

section
/-! PROOFS. Frames, continued: a frame may be widened, a part that holds the same may be taken off it, and the frames of the
updates no earlier part speaks of. -/

namespace Sys2Proof.Machine

theorem OnlyChanges.of_subset {s t : State} {l l' : List Part} (h : OnlyChanges s t l) (hl : l ⊆ l') : OnlyChanges s t l' :=
  fun p hp => h p fun hmem => hp (hl hmem)

/-- A part that holds the same need not be listed. -/
theorem OnlyChanges.erase {s t : State} {p : Part} {l : List Part} (h : OnlyChanges s t (p :: l)) (hp : p.Same s t) :
    OnlyChanges s t l := by
  intro q hq
  by_cases hqp : q = p
  · exact hqp ▸ hp
  · exact h q (List.not_mem_cons_of_ne_of_not_mem hqp hq)

theorem onlyChanges_raise (s : State) (c : Fault) : OnlyChanges s (s.raise c) [.halt, .status] := by
  intro p hp
  cases p with
  | halt | status => simp at hp
  | _ => rfl

theorem raises_of_exec {i : Instr} {s : State} {c : Fault} (h : exec i s = .next (s.raise c)) : Raises i s c :=
  ⟨s.raise c, h, s.raise_halt c, s.raise_status c, onlyChanges_raise s c⟩

theorem onlyChanges_wait (s : State) : OnlyChanges s s.wait [.status] := by
  intro p hp
  cases p with
  | status => simp at hp
  | _ => rfl

theorem onlyChanges_drawn (s : State) : OnlyChanges s s.drawn [.draws] := by
  intro p hp
  cases p with
  | draws => simp at hp
  | _ => rfl

/-! ### Blocks of memory and of registers as parts -/

theorem mem_byteBlock {base count a : Nat} : Part.byte a ∈ byteBlock base count ↔ base ≤ a ∧ a < base + count := by
  simp only [byteBlock, List.mem_map, List.mem_range, Part.byte.injEq]
  constructor
  · rintro ⟨k, hk, rfl⟩; omega
  · rintro ⟨hle, hlt⟩; exact ⟨a - base, by omega, by omega⟩

theorem mem_regBlockParts {x r : Nibble} : Part.reg r ∈ regBlockParts x ↔ r.toNat ≤ x.toNat := by
  simp only [regBlockParts, List.mem_map, List.mem_range, Part.reg.injEq]
  constructor
  · rintro ⟨k, hk, rfl⟩
    rw [BitVec.toNat_ofNat]
    exact (Nat.mod_le ..).trans (Nat.le_of_lt_succ hk)
  · intro h
    exact ⟨r.toNat, Nat.lt_succ_of_le h, (BitVec.ofNat_toNat ..).trans (BitVec.setWidth_eq r)⟩

/-- A block of bytes stored in range changes the bytes of the block and nothing else. -/
theorem onlyChanges_store (s : State) {base : Nat} {bs : List Byte} (h : base + bs.length ≤ Config.memSize) :
    OnlyChanges s (s.setMem (memWriteList s.mem base bs)) (byteBlock base bs.length) := by
  intro p hp
  cases p with
  | byte a => exact (read_memWriteList h a).trans (if_neg fun ha => hp (mem_byteBlock.2 ha))
  | glyphs => exact memWriteList_glyphs ..
  | _ => rfl

/-- The registers a list of bytes reaches are the only ones it can change. -/
theorem onlyChanges_setRegs (s : State) {x : Nibble} {bs : List Byte} (h : bs.length = x.toNat + 1) :
    OnlyChanges s (s.setRegs bs) (regBlockParts x) := by
  intro p hp
  cases p with
  | reg r =>
    have hr : x.toNat < r.toNat := Nat.lt_of_not_le fun hle => hp (mem_regBlockParts.2 hle)
    exact (s.reg_setRegs bs r).trans (List.getD_eq_default _ _ (by omega))
  | _ => rfl

end Sys2Proof.Machine
end

section
/-! PROOFS. The loader (70_reset_and_hazards.md R245) and what construction leaves (10_state.md R36). -/

namespace Sys2Proof.Machine

/-- Settles O6: loading is one store from 0x200 up, in range for at most 3584 bytes. -/
theorem loaderPlacesTheImage : Obligations.LoaderPlacesTheImage := by
  intro s image
  refine ⟨fun hlen => ?accepted, State.load_refused⟩
  have hrange : Config.loadBase + image.length ≤ Config.memSize := by
    simp only [Config.loadBase, Config.memSize]; omega
  refine ⟨_, State.load_ok hlen, fun k hk => ?_, onlyChanges_store s hrange⟩
  have hin : Config.loadBase ≤ 0x200 + k ∧ 0x200 + k < Config.loadBase + image.length := by
    simp only [Config.loadBase]; omega
  calc Memory.read (memWriteList s.mem Config.loadBase image) (0x200 + k)
      = image.getD (0x200 + k - Config.loadBase) 0 := (read_memWriteList hrange _).trans (if_pos hin)
    _ = image.getD k 0 := by rw [Nat.add_sub_cancel_left]

/-- Outside the glyph region an unlisted address reads as 0. -/
theorem Memory.unlisted_of_outside (rom : Config.GlyphRom) {a : Nat}
    (h : a < Config.glyphBase ∨ Config.glyphBase + Config.glyphRomSize ≤ a) : Memory.unlisted rom a = 0 :=
  if_neg (by omega)

/-- Settles O5: every field is the value construction writes, and memory lists no cell, so that it reads as `GLYPH_ROM` in the
glyph region and as 0 elsewhere. -/
theorem resetLeavesTheTabledValues : Obligations.ResetLeavesTheTabledValues := by
  refine ⟨fun rom => ⟨rfl, fun a ha => ?below, fun k => ?glyph, fun a _ ha => ?above, fun r => ?reg, rfl, rfl, rfl,
    fun k => ?slot, rfl, rfl, fun r _ c _ => ?pixel, fun k _ => ?key, rfl⟩, rfl⟩
  case below => exact Memory.unlisted_of_outside rom (.inl ha)
  case glyph => exact Memory.unlisted_glyph rom k.isLt
  case above => exact Memory.unlisted_of_outside rom (.inr ha)
  case reg => exact Vector.getElem_replicate ..
  case slot => exact Vector.getElem_replicate ..
  case pixel => exact Display.cell_blank r c
  case key => exact BitVec.getLsbD_zero

/-- Settles O49: memory lists no cell, `pc` is 0x200, no return address is live, and neither `HALT` nor the status holds a
fatal condition. -/
theorem resetMeetsTheInvariants : Obligations.ResetMeetsTheInvariants := by
  have h : ∀ rom : Config.GlyphRom, (State.construct rom).MemoryCanonical ∧ (State.construct rom).PcBounded ∧
      (State.construct rom).StatusAgrees := fun rom =>
    ⟨wf_construct rom, ⟨show 0x200 ≤ 0x10FE by decide, fun _ hk => absurd hk (Nat.not_lt_zero _)⟩,
      fun _ => ⟨(fun e => nomatch e), (fun e => nomatch e)⟩⟩
  exact ⟨h glyphRom, h⟩

end Sys2Proof.Machine
end

section
/-! PROOFS. RET and CALL (40_display_return.md R101; 41_jump_call_skip.md R111) over the stack controller (10_state.md R27). -/

namespace Sys2Proof.Machine

/-! ### One write of a stack slot and of the depth -/

/-- `stack[k] <- w` (R27). -/
def State.setSlot (s : State) (k : Fin Config.stackCap) (w : Word) : State := { s with stack := s.stack.set k w }

/-- `SP <- n` (R27). -/
def State.setDepth (s : State) (n : Fin (Config.stackCap + 1)) : State := { s with sp := n }

theorem State.setSlot_stack_same (s : State) (k : Fin Config.stackCap) (w : Word) : (s.setSlot k w).stack[k] = w :=
  Vector.getElem_set_self ..

theorem onlyChanges_setSlot (s : State) (k : Fin Config.stackCap) (w : Word) : OnlyChanges s (s.setSlot k w) [.slot k] := by
  intro p hp
  cases p with
  | slot j =>
    have hne : k.val ≠ j.val := fun e => hp (List.mem_singleton.2 (congrArg Part.slot (Fin.ext e.symm)))
    exact Vector.getElem_set_ne k.isLt j.isLt hne
  | _ => rfl

theorem onlyChanges_setDepth (s : State) (n : Fin (Config.stackCap + 1)) : OnlyChanges s (s.setDepth n) [.depth] := by
  intro p hp
  cases p with
  | depth => simp at hp
  | _ => rfl

/-! ### RET (R101) -/

theorem exec_ret_empty {s : State} (h : s.sp.val = 0) : exec .ret s = .next (s.raise .stackUnderflow) := by
  rw [exec, execRet, State.pop_empty h]

theorem exec_ret_pop {s : State} {k : Fin Config.stackCap} (h : s.sp.val = k.val + 1) :
    exec .ret s = .next ((s.setDepth k.castSucc).setPc s.stack[k]) := by
  obtain ⟨_, hpop⟩ := State.pop_ok h
  rw [exec, execRet, hpop]
  rfl

theorem onlyChanges_ret {s : State} {n : Fin (Config.stackCap + 1)} {w : Word} :
    OnlyChanges s ((s.setDepth n).setPc w) [.depth, .pc] :=
  (onlyChanges_setDepth s n).trans (onlyChanges_setPc _ w)

/-- Settles O16: an empty stack makes the pop fail, and otherwise RET is a write of the depth and a write of `pc`. -/
theorem retPopsTheReturnAddress : Obligations.RetPopsTheReturnAddress := by
  intro s
  refine ⟨fun hempty => raises_of_exec (exec_ret_empty hempty), fun k hk => ⟨_, exec_ret_pop hk, rfl, rfl,
    onlyChanges_ret.of_subset (by simp)⟩⟩

/-! ### CALL (R111) -/

theorem exec_call_full (nnn : Addr) {s : State} (h : s.sp.val = Config.stackCap) :
    exec (.call nnn) s = .next (s.raise .stackOverflow) := by
  rw [exec, execCall, State.push_full h]

theorem exec_call_push (nnn : Addr) {s : State} {k : Fin Config.stackCap} (h : s.sp.val = k.val) :
    exec (.call nnn) s = .next (((s.setSlot k (s.pc + 2)).setDepth k.succ).setPc (addrOperand nnn)) := by
  have hlt : s.sp.val < Config.stackCap := h ▸ k.isLt
  rw [exec, execCall, State.push_ok hlt]
  obtain rfl : k = ⟨s.sp.val, hlt⟩ := Fin.ext h.symm
  rfl

theorem onlyChanges_call {s : State} {k : Fin Config.stackCap} {ret target : Word} {n : Fin (Config.stackCap + 1)} :
    OnlyChanges s (((s.setSlot k ret).setDepth n).setPc target) [.slot k, .depth, .pc] :=
  ((onlyChanges_setSlot s k ret).trans (onlyChanges_setDepth _ n)).trans (onlyChanges_setPc _ target)

/-- Settles O18: a full stack makes the push fail, and otherwise CALL is a write of the slot at the depth, of the depth and of
`pc`. -/
theorem callPushesTheReturnAddress : Obligations.CallPushesTheReturnAddress := by
  intro nnn s
  refine ⟨fun hfull => raises_of_exec (exec_call_full nnn hfull), fun k hk => ⟨_, exec_call_push nnn hk, ?slot, rfl,
    addrOperand_toNat nnn, onlyChanges_call⟩⟩
  case slot => exact (congrArg BitVec.toNat (s.setSlot_stack_same k _)).trans (BitVec.toNat_add ..)

/-- Settles O19: CALL leaves the depth `k + 1` and the return address in slot `k`, which is the slot RET pops. -/
theorem callThenRetResumesAfterTheCall : Obligations.CallThenRetResumesAfterTheCall := by
  intro nnn s k hk
  have hsp : k.castSucc = s.sp := Fin.ext hk.symm
  refine ⟨_, _, exec_call_push nnn hk, exec_ret_pop rfl, s.setSlot_stack_same k _, hsp, ?frame⟩
  exact ((onlyChanges_call.trans onlyChanges_ret).of_subset (l' := [.depth, .slot k, .pc]) (by simp)).erase hsp

end Sys2Proof.Machine
end

section
/-! PROOFS. The instructions that are one write of a register or of `I`, continued: LD, OR, AND and XOR on registers
(43_alu.md R130 to R133), JP V0 and RND (44_index_jump_random.md R151, R152), LD Vx, K (47_timer_key.md R181), ADD I and LD F
(48_index_memory.md R190, R191). -/

namespace Sys2Proof.Machine

/-! ### LD, OR, AND, XOR (R130 to R133) -/

theorem exec_ldReg (x y : Nibble) (s : State) : exec (.ldReg x y) s = (s.setReg x (s.reg y)).done := rfl

theorem exec_orReg (x y : Nibble) (s : State) : exec (.orReg x y) s = (s.setReg x (s.reg x ||| s.reg y)).done := rfl

theorem exec_andReg (x y : Nibble) (s : State) : exec (.andReg x y) s = (s.setReg x (s.reg x &&& s.reg y)).done := rfl

theorem exec_xorReg (x y : Nibble) (s : State) : exec (.xorReg x y) s = (s.setReg x (s.reg x ^^^ s.reg y)).done := rfl

/-- Settles O25: LD Vx, Vy is one write of `Vx`. -/
theorem ldRegCopiesVy : Obligations.LdRegCopiesVy := by
  intro x y s
  rw [exec_ldReg]
  exact s.setReg_done x (s.reg y)

/-- One write of `Vx` by a byte that is known bit by bit. -/
theorem State.setReg_done_bits (s : State) (x : Nibble) {b : Byte} {bit : Nat → Bool} (hb : ∀ k, b.getLsbD k = bit k) :
    ∃ t, (s.setReg x b).done = .next t ∧ (∀ k < 8, (t.reg x).getLsbD k = bit k) ∧ t.pc = s.pc + 2 ∧
      OnlyChanges s t [.reg x, .pc] := by
  obtain ⟨t, hexec, hreg, hpc, hframe⟩ := s.setReg_done x b
  exact ⟨t, hexec, fun k _ => hreg ▸ hb k, hpc, hframe⟩

/-- Settles O26: each of the three is one write of `Vx`, by a byte the library describes bit by bit. -/
theorem logicOpsWorkBitwiseWithoutAFlag : Obligations.LogicOpsWorkBitwiseWithoutAFlag := by
  intro x y s
  rw [exec_orReg, exec_andReg, exec_xorReg]
  exact ⟨s.setReg_done_bits x fun _ => BitVec.getLsbD_or, s.setReg_done_bits x fun _ => BitVec.getLsbD_and,
    s.setReg_done_bits x fun _ => BitVec.getLsbD_xor⟩

/-! ### JP V0 (R151) and RND (R152) -/

theorem exec_jpV0 (nnn : Addr) (s : State) : exec (.jpV0 nnn) s = .next (s.setPc (addrOperand nnn + s.regWord 0)) := rfl

@[simp] theorem State.regWord_toNat (s : State) (x : Nibble) : (s.regWord x).toNat = (s.reg x).toNat :=
  BitVec.toNat_setWidth_of_le (by decide)

/-- The largest sum is 0xFFF + 0xFF, so 16 bits hold it. -/
theorem jpV0_target_toNat (nnn : Addr) (s : State) :
    (addrOperand nnn + s.regWord 0).toNat = nnn.toNat + (s.reg 0).toNat := by
  have hn := nnn.isLt
  have hv := (s.reg 0).isLt
  rw [BitVec.toNat_add, addrOperand_toNat, State.regWord_toNat]
  exact Nat.mod_eq_of_lt (by omega)

/-- Settles O22: JP V0 is one write of `pc`, and the sum does not wrap. -/
theorem jpV0AddsTheOffset : Obligations.JpV0AddsTheOffset := fun nnn s =>
  ⟨_, exec_jpV0 nnn s, jpV0_target_toNat nnn s, onlyChanges_setPc s _⟩

theorem exec_rnd (x : Nibble) (kk : Byte) (s : State) :
    exec (.rnd x kk) s = (s.drawn.setReg x (s.randomByte &&& kk)).done := rfl

/-- Settles O36: RND counts the draw and is then one write of `Vx`, by a conjunction with `kk`. -/
theorem rndMasksAFreshRandomByte : Obligations.RndMasksAFreshRandomByte := by
  intro x kk s
  obtain ⟨t, hexec, hreg, hpc, hframe⟩ := s.drawn.setReg_done x (s.randomByte &&& kk)
  have hbits : ∀ b, kk.getLsbD b = false → (t.reg x).getLsbD b = false := fun b hb => by
    rw [hreg, BitVec.getLsbD_and, hb, Bool.and_false]
  have hdraws : t.draws = s.draws + 1 := hframe .draws (by simp)
  exact ⟨t, (exec_rnd x kk s).trans hexec, hreg, hbits, hdraws, hpc,
    ((onlyChanges_drawn s).trans hframe).of_subset (by simp)⟩

/-! ### LD Vx, K (R181) -/

theorem exec_ldVxK_none (x : Nibble) {s : State} (h : s.lowestKey = none) : exec (.ldVxK x) s = .next s.wait := by
  rw [exec, execLdVxK, h]

theorem exec_ldVxK_some (x : Nibble) {s : State} {k : Nat} (h : s.lowestKey = some k) :
    exec (.ldVxK x) s = (s.setReg x (BitVec.ofNat 8 k)).done := by
  rw [exec, execLdVxK, h]

/-- Settles O38: with a lowest held key LD Vx, K is one write of `Vx`, and with none it only returns `WaitKey`. -/
theorem keyWaitTakesTheLowestKey : Obligations.KeyWaitTakesTheLowestKey := by
  intro x s
  refine ⟨fun k hk hheld hlower => ?held, fun hnone => ?none⟩
  case held =>
    obtain ⟨t, hexec, hreg, hpc, hframe⟩ := s.setReg_done x (BitVec.ofNat 8 k)
    have hkey : (t.reg x).toNat = k := by
      rw [hreg, BitVec.toNat_ofNat]
      exact Nat.mod_eq_of_lt (by omega)
    exact ⟨t, (exec_ldVxK_some x (State.lowestKey_some.2 ⟨hk, hheld, hlower⟩)).trans hexec, hkey, hpc, hframe⟩
  case none => exact ⟨s.wait, exec_ldVxK_none x (State.lowestKey_none.2 hnone), s.wait_status, onlyChanges_wait s⟩

/-! ### ADD I (R190) and LD F (R191) -/

theorem exec_addIVx (x : Nibble) (s : State) : exec (.addIVx x) s = (s.setI (s.i + s.regWord x)).done := rfl

theorem exec_ldFVx (x : Nibble) (s : State) : exec (.ldFVx x) s = (s.setI (glyphAddr (s.reg x))).done := rfl

/-- Settles O33: ADD I is one write of `I`, by a sum of two 16-bit words. -/
theorem addIWrapsAtSixteenBits : Obligations.AddIWrapsAtSixteenBits := by
  intro x s
  obtain ⟨t, hexec, hindex, hpc, hframe⟩ := s.setI_done (s.i + s.regWord x)
  have hsum : t.i.toNat = (s.i.toNat + (s.reg x).toNat) % 65536 := by
    rw [hindex, BitVec.toNat_add, State.regWord_toNat]
  exact ⟨t, (exec_addIVx x s).trans hexec, hsum, hpc, hframe⟩

theorem glyphAddr_toNat (b : Byte) : (glyphAddr b).toNat = 0x050 + 5 * (b.toNat % 16) := by
  have hmask : (b &&& 0xF).toNat = b.toNat % 16 := Nat.and_two_pow_sub_one_eq_mod b.toNat 4
  rw [glyphAddr, BitVec.toNat_ofNat, hmask]
  simp only [Config.glyphBase, Config.glyphBytes]
  omega

/-- LD F, Vx leaves the glyph's address in `I` and moves `pc`. -/
theorem ldFVx_done (x : Nibble) (s : State) :
    ∃ t, exec (.ldFVx x) s = .next t ∧ t.i.toNat = 0x050 + 5 * ((s.reg x).toNat % 16) ∧ t.pc = s.pc + 2 ∧
      OnlyChanges s t [.index, .pc] := by
  obtain ⟨t, hexec, hindex, hpc, hframe⟩ := s.setI_done (glyphAddr (s.reg x))
  exact ⟨t, (exec_ldFVx x s).trans hexec, hindex ▸ glyphAddr_toNat _, hpc, hframe⟩

/-- Settles O34: LD F is one write of `I`, and the address of the glyph does not wrap. -/
theorem ldFAddressesTheGlyph : Obligations.LdFAddressesTheGlyph := ldFVx_done

/-- Settles O35: LD F writes no memory, so the bytes from `I` up are still those of the region, at the glyph's offset. -/
theorem ldFFindsTheGlyphOfTheRom : Obligations.LdFFindsTheGlyphOfTheRom := by
  intro rom x s hrom
  obtain ⟨t, hexec, hindex, -, hframe⟩ := ldFVx_done x s
  refine ⟨t, hexec, fun k row _ hk => ?_⟩
  have haddr : t.i.toNat + row = 0x050 + k.val := by rw [hindex, hk, Nat.add_assoc]
  calc t.byteAt (t.i.toNat + row) = s.byteAt (0x050 + k) := haddr ▸ hframe (.byte _) (by simp)
    _ = rom[k] := hrom k

end Sys2Proof.Machine
end

section
/-! PROOFS. Memory transfer (48_index_memory.md R192 to R194): LD B and LD [I] are one store of a block at `I`, LD Vx,[I] is one
load; and a store is seen by the next fetch (20_memory.md R61, R63). -/

namespace Sys2Proof.Machine

/-! ### One store at `I` -/

theorem State.byteUnder_add (s : State) {count k : Nat} (byte : Nat → Byte) (h : k < count) :
    s.byteUnder count byte (s.i.toNat + k) = byte k := by
  rw [State.byteUnder, if_pos (by omega), Nat.add_sub_cancel_left]

/-- An instruction that is one store at `I` of `count` bytes, byte `k` of them being `byte k`, puts them there, moves `pc` by 2
and changes nothing else. -/
theorem State.store_done (s : State) {bs : List Byte} {count : Nat} {byte : Nat → Byte} (hlen : bs.length = count)
    (hbs : ∀ k < count, bs.getD k 0 = byte k) (hrange : s.i.toNat + count ≤ Config.memSize) :
    ∃ t, (s.setMem (memWriteList s.mem s.base bs)).done = .next t ∧ (∀ a, t.byteAt a = s.byteUnder count byte a) ∧
      t.pc = s.pc + 2 ∧ OnlyChanges s t (.pc :: byteBlock s.i.toNat count) := by
  subst hlen
  refine ⟨_, rfl, fun a => ?bytes, rfl,
    ((onlyChanges_store s hrange).trans (onlyChanges_advance _ 2)).of_subset (by simp)⟩
  case bytes =>
    refine (read_memWriteList hrange a).trans ?_
    rw [State.byteUnder]
    split_ifs with ha
    · exact hbs _ (by omega)
    · rfl

/-! ### LD B (R192) -/

theorem exec_ldBVx_out (x : Nibble) {s : State} (h : 0xFFF < s.i.toNat + 2) :
    exec (.ldBVx x) s = .next (s.raise .addressOutOfRange) :=
  State.withBlock_out (by decide) (Nat.succ_lt_succ h)

theorem bcdDigits_getD (b : Byte) : ∀ k < 3, (bcdDigits b).getD k 0 = bcdDigit b k
  | 0, _ | 1, _ | 2, _ => rfl

/-- In range LD B is one store at `I` of the three digits. -/
theorem ldBVx_done (x : Nibble) {s : State} (h : s.i.toNat + 2 ≤ 0xFFF) :
    ∃ t, exec (.ldBVx x) s = .next t ∧ (∀ a, t.byteAt a = s.byteUnder 3 (bcdDigit (s.reg x)) a) ∧ t.pc = s.pc + 2 ∧
      OnlyChanges s t (.pc :: byteBlock s.i.toNat 3) := by
  have hrange : s.i.toNat + 3 ≤ Config.memSize := Nat.succ_le_succ h
  obtain ⟨t, hstore, ht⟩ := s.store_done (bs := bcdDigits (s.reg x)) rfl (bcdDigits_getD _) hrange
  exact ⟨t, (State.withBlock_ok (.inr hrange)).trans hstore, ht⟩

/-- A digit is below 256, so the byte that holds it has its value. -/
theorem bcdDigit_toNat (b : Byte) :
    (bcdDigit b 0).toNat = b.toNat / 100 ∧ (bcdDigit b 1).toNat = b.toNat / 10 % 10 ∧ (bcdDigit b 2).toNat = b.toNat % 10 := by
  have hb := b.isLt
  simp only [bcdDigit, BitVec.toNat_ofNat]
  omega

/-- Settles O41: the bytes after the store are the digits at `I`, `I + 1` and `I + 2`. -/
theorem bcdStoresThreeDigits : Obligations.BcdStoresThreeDigits := by
  intro x s
  refine ⟨fun h => ?inRange, fun h => raises_of_exec (exec_ldBVx_out x h)⟩
  obtain ⟨t, hexec, hbytes, hpc, hframe⟩ := ldBVx_done x h
  obtain ⟨h0, h1, h2⟩ := bcdDigit_toNat (s.reg x)
  have hdigit : ∀ k < 3, t.byteAt (s.i.toNat + k) = bcdDigit (s.reg x) k := fun k hk =>
    (hbytes _).trans (s.byteUnder_add _ hk)
  exact ⟨t, hexec, (congrArg BitVec.toNat (hdigit 0 (by decide))).trans h0,
    (congrArg BitVec.toNat (hdigit 1 (by decide))).trans h1, (congrArg BitVec.toNat (hdigit 2 (by decide))).trans h2,
    hpc, hframe⟩

/-! ### LD [I], Vx (R193) -/

theorem exec_storeRegs_out {x : Nibble} {s : State} (h : 0xFFF < s.i.toNat + x.toNat) :
    exec (.storeRegs x) s = .next (s.raise .addressOutOfRange) :=
  State.withBlock_out (Nat.succ_ne_zero _) (Nat.succ_lt_succ h)

/-- In range LD [I], Vx is one store at `I` of V0 to Vx. -/
theorem storeRegs_done {x : Nibble} {s : State} (h : s.i.toNat + x.toNat ≤ 0xFFF) :
    ∃ t, exec (.storeRegs x) s = .next t ∧
      (∀ a, t.byteAt a = s.byteUnder (x.toNat + 1) (fun k => s.reg (BitVec.ofNat 4 k)) a) ∧ t.pc = s.pc + 2 ∧
      OnlyChanges s t (.pc :: byteBlock s.i.toNat (x.toNat + 1)) := by
  have hrange : s.i.toNat + (x.toNat + 1) ≤ Config.memSize := Nat.succ_le_succ h
  obtain ⟨t, hstore, ht⟩ := s.store_done (s.regBlock_length x)
    (fun k hk => (s.regBlock_getD x k 0).trans (if_pos (Nat.le_of_lt_succ hk))) hrange
  exact ⟨t, (State.withBlock_ok (.inr hrange)).trans hstore, ht⟩

theorem byteUnder_regBlock (s : State) {x k : Nibble} (h : k.toNat ≤ x.toNat) :
    s.byteUnder (x.toNat + 1) (fun j => s.reg (BitVec.ofNat 4 j)) (s.i.toNat + k.toNat) = s.reg k :=
  (s.byteUnder_add _ (Nat.lt_succ_of_le h)).trans (congrArg s.reg ((BitVec.ofNat_toNat ..).trans (BitVec.setWidth_eq k)))

/-- Settles O42: the bytes after the store are V0 to Vx at `I` and up. -/
theorem storeRegsDumpsTheBlock : Obligations.StoreRegsDumpsTheBlock := by
  intro x s
  refine ⟨fun h => ?inRange, fun h => raises_of_exec (exec_storeRegs_out h)⟩
  obtain ⟨t, hexec, hbytes, hpc, hframe⟩ := storeRegs_done h
  exact ⟨t, hexec, fun k hk => (hbytes _).trans (byteUnder_regBlock s hk), hpc, hframe⟩

/-! ### LD Vx, [I] (R194) -/

theorem exec_loadRegs_out {x : Nibble} {s : State} (h : 0xFFF < s.i.toNat + x.toNat) :
    exec (.loadRegs x) s = .next (s.raise .addressOutOfRange) :=
  State.withBlock_out (Nat.succ_ne_zero _) (Nat.succ_lt_succ h)

/-- In range LD Vx, [I] loads V0 to Vx from `I` and up, moves `pc` by 2 and changes nothing else. -/
theorem loadRegs_done {x : Nibble} {s : State} (h : s.i.toNat + x.toNat ≤ 0xFFF) :
    ∃ t, exec (.loadRegs x) s = .next t ∧
      (∀ k : Nibble, k.toNat ≤ x.toNat → t.reg k = s.byteAt (s.i.toNat + k.toNat)) ∧ t.pc = s.pc + 2 ∧
      OnlyChanges s t (.pc :: regBlockParts x) := by
  have hrange : s.i.toNat + (x.toNat + 1) ≤ Config.memSize := Nat.succ_le_succ h
  refine ⟨_, State.withBlock_ok (.inr hrange), fun k hk => ?loaded, rfl,
    ((onlyChanges_setRegs s (s.memBlock_length x)).trans (onlyChanges_advance _ 2)).of_subset (by simp)⟩
  case loaded =>
    rw [State.advance_reg, State.reg_setRegs, State.memBlock_getD, if_pos hk]
    exact memRead_of_lt (Nat.lt_of_lt_of_le (Nat.add_lt_add_left (Nat.lt_succ_of_le hk) _) hrange)

/-- Settles O43: LD Vx, [I] in range is the load of the block. -/
theorem loadRegsFillsTheBlock : Obligations.LoadRegsFillsTheBlock := fun _ _ =>
  ⟨loadRegs_done, fun h => raises_of_exec (exec_loadRegs_out h)⟩

/-- Settles O44: the store leaves `I`, so the load reads the addresses the store wrote. -/
theorem loadAfterStoreRestoresTheBlock : Obligations.LoadAfterStoreRestoresTheBlock := by
  intro x s between h
  obtain ⟨t, hstore, hbytes, -, hframe⟩ := storeRegs_done h
  have hi : t.i = s.i := hframe .index (by simp [byteBlock])
  obtain ⟨u, hload, hregs, -, -⟩ := loadRegs_done (x := x) (s := { t with v := between }) (hi ▸ h)
  refine ⟨t, u, hstore, hload, fun k hk => ?_⟩
  calc u.reg k = t.byteAt (t.i.toNat + k.toNat) := hregs k hk
    _ = s.reg k := by rw [hi, hbytes, byteUnder_regBlock s hk]

/-! ### Stored code (20_memory.md R61, R63) -/

/-- After a store of `count` bytes at `I` by an instruction that moves `pc` by 2, the fetch reads through the store. -/
theorem fetch_after_store {s t : State} {count : Nat} {byte : Nat → Byte} (hfetch : s.pc.toNat + 2 ≤ 0xFFE)
    (hpc : t.pc = s.pc + 2) (hbytes : ∀ a, t.byteAt a = s.byteUnder count byte a) :
    fetch t = .ok (wordOfBytes (s.byteUnder count byte (s.pc.toNat + 2)) (s.byteUnder count byte (s.pc.toNat + 3))) ∧
      (2 ≤ count → s.i = s.pc + 2 → fetch t = .ok (wordOfBytes (byte 0) (byte 1))) := by
  have hnext : (s.pc + 2).toNat = s.pc.toNat + 2 := by
    rw [BitVec.toNat_add]
    exact Nat.mod_eq_of_lt (by simp; omega)
  have hword : fetch t = .ok (wordOfBytes (s.byteUnder count byte (s.pc.toNat + 2))
      (s.byteUnder count byte (s.pc.toNat + 3))) := by
    rw [fetch_ok (by rw [hpc, hnext]; exact Nat.add_le_add_right hfetch 2), hpc, hnext, ← hbytes, ← hbytes]
    rfl
  refine ⟨hword, fun hcount hi => ?_⟩
  have hbase : s.i.toNat = s.pc.toNat + 2 := by rw [hi, hnext]
  rw [hword, show s.pc.toNat + 3 = s.i.toNat + 1 by omega, ← hbase, s.byteUnder_add byte (show 1 < count from hcount)]
  exact congrArg (fun b => Except.ok (wordOfBytes b (byte 1))) (s.byteUnder_add (k := 0) byte (by omega))

/-- Settles O45: both instructions are one store at `I`, and the fetch after such a store reads through it. -/
theorem storedCodeIsFetchedNext : Obligations.StoredCodeIsFetchedNext := by
  intro x s hfetch
  refine ⟨fun h => ?store, fun h => ?bcd⟩
  case store =>
    obtain ⟨t, hexec, hbytes, hpc, -⟩ := storeRegs_done h
    obtain ⟨hword, hnext⟩ := fetch_after_store hfetch hpc hbytes
    exact ⟨t, hexec, hword, fun hx => hnext (Nat.succ_le_succ hx)⟩
  case bcd =>
    obtain ⟨t, hexec, hbytes, hpc, -⟩ := ldBVx_done x h
    obtain ⟨hword, hnext⟩ := fetch_after_store hfetch hpc hbytes
    exact ⟨t, hexec, hword, hnext (by decide)⟩

end Sys2Proof.Machine
end

section
/-! PROOFS. DRW (45_draw.md R160 to R166): the grid is the sprite drawn on it, VF the collision. -/

namespace Sys2Proof.Machine

theorem exec_drw_inRange {n : Nibble} {s : State} (h : s.SpriteInRange n) (x y : Nibble) :
    exec (.drw x y n) s = ((s.setPix (s.sprite x y n).pix).setFlag (s.sprite x y n).hit).done := State.withBlock_ok h

theorem exec_drw_out {n : Nibble} {s : State} (h₀ : n.toNat ≠ 0) (h : Config.memSize < s.base + n.toNat) (x y : Nibble) :
    exec (.drw x y n) s = .next (s.raise .addressOutOfRange) := State.withBlock_out h₀ h

/-- The range of R166 as the statements write it. -/
theorem State.spriteInRange_iff {s : State} {n : Nibble} :
    s.SpriteInRange n ↔ n.toNat = 0 ∨ s.i.toNat + n.toNat - 1 ≤ 0xFFF := by
  simp only [State.SpriteInRange, State.base, Config.memSize]
  omega

/-- In range DRW draws the sprite, writes the flag and moves `pc` by 2. -/
theorem drw_done {x y n : Nibble} {s : State} (h : s.SpriteInRange n) :
    ∃ t, exec (.drw x y n) s = .next t ∧ t.pix = (s.sprite x y n).pix ∧
      t.reg 15 = (if (s.sprite x y n).hit then 1 else 0) ∧ t.pc = s.pc + 2 ∧ OnlyChanges s t [.display, .reg 15, .pc] :=
  ⟨_, exec_drw_inRange h x y, rfl, State.reg_setReg_same .., rfl,
    ((onlyChanges_setPix s _).trans (onlyChanges_setReg _ 15 _)).trans (onlyChanges_advance _ 2)⟩

/-- Settles O39: the cells and the flag after the sprite is drawn are those of `Laws/Draw`. -/
theorem drwXorsTheSprite : Obligations.DrwXorsTheSprite := by
  intro x y n s
  refine ⟨fun h => ?inRange, fun ⟨hn, h⟩ => raises_of_exec (exec_drw_out (by omega) ?out x y)⟩
  case inRange =>
    have hin := State.spriteInRange_iff.2 h
    obtain ⟨t, hexec, hpix, hflag, hpc, hframe⟩ := drw_done (x := x) (y := y) hin
    have hhit := State.sprite_hit hin x y
    refine ⟨t, hexec, fun r _ c _ => ⟨fun hcov => ?_, fun hcov => ?_⟩, fun hcol => ?_, fun hcol => ?_, hpc, hframe⟩
    · rw [State.pixel, hpix, State.sprite_cell_covered hin hcov, State.pixel]
    · rw [State.pixel, hpix, State.sprite_cell_uncovered hin hcov, State.pixel]
    · rw [hflag, if_pos (hhit.2 hcol)]
    · rw [hflag, if_neg (mt hhit.1 hcol)]
  case out =>
    simp only [State.base, Config.memSize]
    omega

/-! ### Drawing twice (R165) -/

theorem State.pixel_eq_of_sameCell (s : State) {r c r' c' : Nat} (h : SameCell (r, c) (r', c')) : s.pixel r c = s.pixel r' c' := by
  obtain ⟨hr, hc⟩ := h
  simp only [State.pixel, Display.cell, hr, hc]

/-- The sprite and its place are the same in two states that agree in memory, `I`, `Vx` and `Vy`. -/
theorem State.spriteCovers_congr {s t : State} {x y n : Nibble} (hmem : ∀ a, t.byteAt a = s.byteAt a) (hi : t.i = s.i)
    (hx : t.reg x = s.reg x) (hy : t.reg y = s.reg y) (r c : Nat) : t.spriteCovers x y n r c ↔ s.spriteCovers x y n r c := by
  simp only [State.spriteCovers, State.spriteBit, State.base, hmem, hi, hx, hy]

/-- A collision is a covered cell that holds 1. -/
theorem State.spriteCollides_iff (s : State) (x y n : Nibble) :
    s.spriteCollides x y n ↔ ∃ r < 32, ∃ c < 64, s.spriteCovers x y n r c ∧ s.pixel r c = true := by
  constructor
  · rintro ⟨row, hrow, col, hcol, hbit, hpix⟩
    have hcell : SameCell ((s.reg y).toNat + row, (s.reg x).toNat + col)
        (((s.reg y).toNat + row) % 32, ((s.reg x).toNat + col) % 64) := ⟨(Nat.mod_mod ..).symm, (Nat.mod_mod ..).symm⟩
    exact ⟨_, Nat.mod_lt _ (by decide), _, Nat.mod_lt _ (by decide), ⟨row, hrow, col, hcol, hbit, hcell⟩,
      s.pixel_eq_of_sameCell hcell ▸ hpix⟩
  · rintro ⟨r, _, c, _, ⟨row, hrow, col, hcol, hbit, hcell⟩, hpix⟩
    exact ⟨row, hrow, col, hcol, hbit, (s.pixel_eq_of_sameCell hcell).trans hpix⟩

/-- Settles O40: the first draw leaves the sprite and its place, so the second inverts the same cells again, and it collides
where the first turned a cell that was 0 into 1. -/
theorem drwTwiceRestoresTheGrid : Obligations.DrwTwiceRestoresTheGrid := by
  intro x y n s hx hy h
  obtain ⟨t, hfirst, hcells, -, -, -, hframe⟩ := (drwXorsTheSprite x y n s).1 h
  have hi : t.i = s.i := hframe .index (by simp)
  obtain ⟨u, hsecond, hcells', hset, hclear, -, -⟩ := (drwXorsTheSprite x y n t).1 (hi ▸ h)
  have hcov : ∀ r c, t.spriteCovers x y n r c ↔ s.spriteCovers x y n r c :=
    State.spriteCovers_congr (fun a => hframe (.byte a) (by simp)) hi (hframe (.reg x) (by simpa using hx))
      (hframe (.reg y) (by simpa using hy))
  refine ⟨t, u, hfirst, hsecond, fun r hr c hc => ?grid, ?flag⟩
  case grid =>
    obtain ⟨hin, hout⟩ := hcells r hr c hc
    obtain ⟨hin', hout'⟩ := hcells' r hr c hc
    rw [hcov] at hin' hout'
    by_cases hc : s.spriteCovers x y n r c
    · rw [hin' hc, hin hc, Bool.not_not]
    · rw [hout' hc, hout hc]
  case flag =>
    have hflag : u.reg 15 = 1 ↔ t.spriteCollides x y n :=
      ⟨fun h1 => by_contra fun hcol => absurd ((hclear hcol).symm.trans h1) (by decide), hset⟩
    rw [hflag, State.spriteCollides_iff]
    refine exists_congr fun r => and_congr_right fun hr => exists_congr fun c => and_congr_right fun hc => ?_
    rw [hcov]
    refine and_congr_right fun hcovers => ?_
    rw [(hcells r hr c hc).1 hcovers, Bool.not_eq_true']

end Sys2Proof.Machine
end

section
/-! PROOFS. One equation for all 34 instructions (30_encoding.md R77, 60_exceptions.md R209): an instruction either takes the
fatal condition it meets, or writes its parts of the state and sends `pc` where the table `pcAfter` says. The statements about
every instruction are then statements about the condition, the parts written, and the table, each a short case split. -/

namespace Sys2Proof.Machine

/-! ### What an instruction does, in three parts -/

/-- The fatal condition of a block access at `I` (20_memory.md R54). -/
def State.blockFault (s : State) (count : Nat) : Option Fault :=
  if rangeOk s.base count then none else some .addressOutOfRange

/-- The fatal condition an instruction meets (60_exceptions.md R209). -/
def State.faultOf (s : State) : Instr → Option Fault
  | .call _ => if s.sp.val = Config.stackCap then some .stackOverflow else none
  | .ret => if s.sp.val = 0 then some .stackUnderflow else none
  | .drw _ _ n => s.blockFault n.toNat
  | .ldBVx _ => s.blockFault 3
  | .storeRegs x | .loadRegs x => s.blockFault (blockCount x)
  | _ => none

/-- The stack and the depth after a push below the capacity (10_state.md R27). -/
def State.pushed (s : State) (w : Word) : State :=
  { s with
    stack := s.stack.setIfInBounds s.sp.val w
    sp := ⟨min (s.sp.val + 1) Config.stackCap, Nat.lt_succ_of_le (Nat.min_le_right ..)⟩ }

/-- The depth after a pop of a stack that is not empty (10_state.md R27). -/
def State.popped (s : State) : State := s.setDepth ⟨s.sp.val - 1, Nat.lt_of_le_of_lt (Nat.sub_le ..) s.sp.isLt⟩

/-- What LD Vx, K writes: the lowest held key to `Vx`, or the status `WaitKey` (47_timer_key.md R181). -/
def State.keyTaken (s : State) (x : Nibble) : State :=
  { s with
    v := s.lowestKey.elim s.v fun k => s.v.set x.toNat (BitVec.ofNat 8 k) x.isLt
    status := s.lowestKey.elim .waitKey fun _ => s.status }

/-- What an instruction that takes no fatal condition writes, `pc` apart. -/
def State.written (s : State) : Instr → State
  | .cls => s.setPix Display.blank
  | .ret => s.popped
  | .call _ => s.pushed (s.pc + 2)
  | .ldImm x kk => s.setReg x kk
  | .addImm x kk => s.setReg x (s.reg x + kk)
  | .ldReg x y => s.setReg x (s.reg y)
  | .orReg x y => s.setReg x (s.reg x ||| s.reg y)
  | .andReg x y => s.setReg x (s.reg x &&& s.reg y)
  | .xorReg x y => s.setReg x (s.reg x ^^^ s.reg y)
  | .addReg x y => s.setResultAndFlag x (s.reg x + s.reg y) (carryOut (s.reg x) (s.reg y))
  | .subReg x y => s.setResultAndFlag x (s.reg x - s.reg y) (noBorrow (s.reg x) (s.reg y))
  | .subnReg x y => s.setResultAndFlag x (s.reg y - s.reg x) (noBorrow (s.reg y) (s.reg x))
  | .shr x _ => s.setResultAndFlag x (s.reg x >>> 1) (shiftedOutRight (s.reg x))
  | .shl x _ => s.setResultAndFlag x (s.reg x <<< 1) (shiftedOutLeft (s.reg x))
  | .ldI nnn => s.setI (addrOperand nnn)
  | .addIVx x => s.setI (s.i + s.regWord x)
  | .ldFVx x => s.setI (glyphAddr (s.reg x))
  | .rnd x kk => s.drawn.setReg x (s.randomByte &&& kk)
  | .drw x y n => (s.setPix (s.sprite x y n).pix).setFlag (s.sprite x y n).hit
  | .ldVxDT x => s.setReg x s.dt
  | .ldVxK x => s.keyTaken x
  | .ldDTVx x => s.setDT (s.reg x)
  | .ldSTVx x => s.setST (s.reg x)
  | .ldBVx x => s.setMem (memWriteList s.mem s.base (bcdDigits (s.reg x)))
  | .storeRegs x => s.setMem (memWriteList s.mem s.base (s.regBlock x))
  | .loadRegs x => s.setRegs (s.memBlock x)
  | .jp _ | .jpV0 _ | .seImm _ _ | .sneImm _ _ | .seReg _ _ | .sneReg _ _ | .skp _ | .sknp _ => s

/-- The state after an instruction. -/
def State.after (s : State) (i : Instr) : State := (s.faultOf i).elim ((s.written i).setPc (pcAfter s i)) s.raise

/-! ### `exec` in these terms -/

theorem State.withBlock_next (s u : State) (count : Nat) :
    s.withBlock count (.next u) = .next ((s.blockFault count).elim u s.raise) := by
  rw [State.withBlock, State.blockFault]
  split_ifs <;> rfl

theorem State.skipIf_iff (s : State) {cond : Bool} {p : Prop} [Decidable p] (h : cond = true ↔ p) :
    s.skipIf cond = .next (s.setPc (if p then s.pc + 4 else s.pc + 2)) := by
  rw [State.skipIf, State.advance, ← if_congr h rfl rfl]
  cases cond <;> rfl

/-- `Pressed` is a bit of the latch: above bit 15 a latch has no bit that is 1 (46_keypad_skip.md R172). -/
theorem State.pressed_eq (s : State) (b : Byte) : s.pressed b = s.keys.getLsbD b.toNat := by
  rcases Nat.lt_or_ge b.toNat 16 with h | h
  · exact s.pressed_of_le (Nat.le_of_lt_succ h)
  · rw [s.pressed_of_ge h, BitVec.getLsbD_of_ge _ _ h]

theorem State.lowestKey_none_iff_keys (s : State) : s.lowestKey = none ↔ s.keys = 0 := by
  rw [State.lowestKey_none]
  constructor
  · exact fun h => BitVec.eq_of_getLsbD_eq fun k hk => (h k hk).trans BitVec.getLsbD_zero.symm
  · exact fun h k _ => by rw [h]; exact BitVec.getLsbD_zero

theorem State.pushed_eq (s : State) (w : Word) (h : s.sp.val < Config.stackCap) :
    s.pushed w = (s.setSlot ⟨s.sp.val, h⟩ w).setDepth (Fin.succ ⟨s.sp.val, h⟩) := by
  have hsp : min (s.sp.val + 1) Config.stackCap = s.sp.val + 1 := Nat.min_eq_left h
  have hset : s.stack.setIfInBounds s.sp.val w = s.stack.set s.sp.val w h := by
    ext k hk; simp [Vector.getElem_setIfInBounds, Vector.getElem_set]
  simp only [State.pushed, State.setSlot, State.setDepth, hsp, hset, Fin.succ_mk]

theorem exec_call_eq (nnn : Addr) (s : State) : exec (.call nnn) s = .next (s.after (.call nnn)) := by
  rw [State.after, State.faultOf]
  split_ifs with hfull
  · exact exec_call_full nnn hfull
  · have hlt : s.sp.val < Config.stackCap := lt_of_le_of_ne (Nat.le_of_lt_succ s.sp.isLt) hfull
    rw [exec_call_push nnn (k := ⟨s.sp.val, hlt⟩) rfl, ← s.pushed_eq (s.pc + 2) hlt]
    rfl

theorem State.exists_last_slot (s : State) (h : s.sp.val ≠ 0) : ∃ k : Fin Config.stackCap, s.sp.val = k.val + 1 :=
  ⟨⟨s.sp.val - 1, by omega⟩, by simp only; omega⟩

/-- The value RET pops, as the table reads it. -/
theorem pcAfter_ret {s : State} {k : Fin Config.stackCap} (h : s.sp.val = k.val + 1) : pcAfter s .ret = s.stack[k] := by
  rw [pcAfter, h, Nat.add_sub_cancel]
  simp

theorem exec_ret_eq (s : State) : exec .ret s = .next (s.after .ret) := by
  rw [State.after, State.faultOf]
  split_ifs with hempty
  · exact exec_ret_empty hempty
  · obtain ⟨k, hk⟩ := s.exists_last_slot hempty
    have hpop : s.popped = s.setDepth k.castSucc := congrArg s.setDepth (Fin.ext (Nat.sub_eq_of_eq_add hk))
    rw [exec_ret_pop hk, ← hpop, ← pcAfter_ret hk]
    rfl

theorem exec_ldVxK_eq (x : Nibble) (s : State) : exec (.ldVxK x) s = .next (s.after (.ldVxK x)) := by
  have hafter : s.after (.ldVxK x) = (s.keyTaken x).setPc (if s.keys = 0 then s.pc else s.pc + 2) := rfl
  have hkeys := s.lowestKey_none_iff_keys
  cases hkey : s.lowestKey with
  | none =>
    rw [hafter, exec_ldVxK_none x hkey, if_pos (hkeys.1 hkey)]
    simp only [State.keyTaken, hkey]
    rfl
  | some k =>
    rw [hafter, exec_ldVxK_some x hkey, if_neg fun h0 => by simp [hkeys.2 h0] at hkey]
    simp only [State.keyTaken, hkey]
    rfl

/-- Every instruction answers a next state, and which one (R77). -/
theorem exec_eq (i : Instr) (s : State) : exec i s = .next (s.after i) := by
  cases i with
  | call nnn => exact exec_call_eq nnn s
  | ret => exact exec_ret_eq s
  | ldVxK x => exact exec_ldVxK_eq x s
  | seImm | seReg => exact s.skipIf_iff beq_iff_eq
  | sneImm | sneReg => exact s.skipIf_iff bne_iff_ne
  | skp x => exact s.skipIf_iff (by rw [s.pressed_eq])
  | sknp x => exact (s.skipIf_iff (by rw [s.pressed_eq, Bool.not_eq_true', ← Bool.not_eq_true])).trans (by rw [ite_not]; rfl)
  | drw | ldBVx | storeRegs | loadRegs => exact s.withBlock_next _ _
  | _ => rfl

theorem eq_after_of_exec {i : Instr} {s t : State} (h : exec i s = .next t) : t = s.after i :=
  Host.Outcome.next.inj (h.symm.trans (exec_eq i s))

end Sys2Proof.Machine
end

section
/-! PROOFS. The writers of each part of the state (10_state.md R22, R34), what each instruction does to `pc` (30_encoding.md R77),
and the causes of the fatal conditions (60_exceptions.md R201, R209): read off `written`, `pcAfter` and `faultOf`. -/

namespace Sys2Proof.Machine

/-! ### The two ends of an instruction -/

theorem State.after_of_faultOf_none {s : State} {i : Instr} (h : s.faultOf i = none) :
    s.after i = (s.written i).setPc (pcAfter s i) := by
  rw [State.after, h, Option.elim_none]

theorem State.after_of_faultOf_some {s : State} {i : Instr} {c : Fault} (h : s.faultOf i = some c) : s.after i = s.raise c := by
  rw [State.after, h, Option.elim_some]

/-- What holds of the state with a fatal condition taken, and of the state with everything written, holds after the
instruction. -/
theorem State.after_cases {s : State} {i : Instr} {P : State → Prop} (hraise : ∀ c, s.faultOf i = some c → P (s.raise c))
    (hdone : s.faultOf i = none → P ((s.written i).setPc (pcAfter s i))) : P (s.after i) := by
  cases h : s.faultOf i with
  | none => exact State.after_of_faultOf_none h ▸ hdone h
  | some c => exact State.after_of_faultOf_some h ▸ hraise c h

/-- A part of the state that neither a fatal condition nor a write of `pc` touches is after the instruction what `written` makes
of it. -/
theorem State.after_keeps {α : Type} (part : State → α) {s : State} {i : Instr} (h : part (s.written i) = part s)
    (hraise : ∀ c, part (s.raise c) = part s := by intro _; rfl)
    (hpc : ∀ u w, part (State.setPc u w) = part u := by intros; rfl) : part (s.after i) = part s :=
  State.after_cases (P := fun t => part t = part s) (fun c _ => hraise c) fun _ => (hpc _ _).trans h

/-! ### The writers of each part -/

section Written

variable (s : State) (i : Instr)

theorem State.written_halt : (s.written i).halt = s.halt := by
  cases i <;> rfl

theorem State.written_keys : (s.written i).keys = s.keys := by
  cases i <;> rfl

theorem State.written_report : (s.written i).report = s.report := by
  cases i <;> rfl

theorem State.written_schedule : (s.written i).schedule = s.schedule := by
  cases i <;> rfl

theorem State.written_glyphs : (s.written i).mem.glyphs = s.mem.glyphs := by
  cases i with
  | ldBVx | storeRegs => exact memWriteList_glyphs ..
  | _ => rfl

variable {s i}

theorem State.written_mem (hB : ∀ x, i ≠ .ldBVx x) (hS : ∀ x, i ≠ .storeRegs x) : (s.written i).mem = s.mem := by
  cases i with
  | ldBVx x => exact absurd rfl (hB x)
  | storeRegs x => exact absurd rfl (hS x)
  | _ => rfl

theorem State.written_index (hL : ∀ nnn, i ≠ .ldI nnn) (hA : ∀ x, i ≠ .addIVx x) (hF : ∀ x, i ≠ .ldFVx x) :
    (s.written i).i = s.i := by
  cases i with
  | ldI nnn => exact absurd rfl (hL nnn)
  | addIVx x => exact absurd rfl (hA x)
  | ldFVx x => exact absurd rfl (hF x)
  | _ => rfl

theorem State.written_stack (hC : ∀ nnn, i ≠ .call nnn) : (s.written i).stack = s.stack := by
  cases i with
  | call nnn => exact absurd rfl (hC nnn)
  | _ => rfl

theorem State.written_depth (hC : ∀ nnn, i ≠ .call nnn) (hR : i ≠ .ret) : (s.written i).sp = s.sp := by
  cases i with
  | call nnn => exact absurd rfl (hC nnn)
  | ret => exact absurd rfl hR
  | _ => rfl

theorem State.written_delay (hD : ∀ x, i ≠ .ldDTVx x) : (s.written i).dt = s.dt := by
  cases i with
  | ldDTVx x => exact absurd rfl (hD x)
  | _ => rfl

theorem State.written_sound (hS : ∀ x, i ≠ .ldSTVx x) : (s.written i).st = s.st := by
  cases i with
  | ldSTVx x => exact absurd rfl (hS x)
  | _ => rfl

theorem State.written_display (hC : i ≠ .cls) (hD : ∀ x y n, i ≠ .drw x y n) : (s.written i).pix = s.pix := by
  cases i with
  | cls => exact absurd rfl hC
  | drw x y n => exact absurd rfl (hD x y n)
  | _ => rfl

theorem State.written_status (hK : ∀ x, i ≠ .ldVxK x) : (s.written i).status = s.status := by
  cases i with
  | ldVxK x => exact absurd rfl (hK x)
  | _ => rfl

theorem State.written_draws (hR : ∀ x kk, i ≠ .rnd x kk) : (s.written i).draws = s.draws := by
  cases i with
  | rnd x kk => exact absurd rfl (hR x kk)
  | _ => rfl

theorem State.reg_keyTaken_of_ne (s : State) {x r : Nibble} (h : r ≠ x) : (s.keyTaken x).reg r = s.reg r := by
  cases hkey : s.lowestKey with
  | none => simp only [State.reg, State.keyTaken, hkey, Option.elim_none]
  | some k =>
    simp only [State.reg, State.keyTaken, hkey, Option.elim_some]
    exact Vector.getElem_set_ne x.isLt r.isLt (nibble_toNat_ne h)

/-- A register the instruction does not write by its rule keeps its byte (R22, R34). -/
theorem State.written_reg {r : Nibble} (h : writesReg i r = false) : (s.written i).reg r = s.reg r := by
  cases i with
  | ldImm | addImm | ldReg | orReg | andReg | xorReg | rnd | ldVxDT => exact State.reg_setReg_of_ne _ _ (ne_of_beq_false h)
  | ldVxK => exact s.reg_keyTaken_of_ne (ne_of_beq_false h)
  | addReg | subReg | shr | subnReg | shl =>
    obtain ⟨hx, hflag⟩ := Bool.or_eq_false_iff.1 h
    exact (s.reg_setResultAndFlag ..).trans ((if_neg (ne_of_beq_false hflag)).trans (if_neg (ne_of_beq_false hx)))
  | drw => exact (State.reg_setFlag ..).trans (if_neg (ne_of_beq_false h))
  | loadRegs x => exact (s.reg_setRegs ..).trans ((s.memBlock_getD ..).trans (if_neg (of_decide_eq_false h)))
  | _ => rfl

end Written

/-- An instruction outside the list of R209 meets no fatal condition. -/
theorem State.faultOf_none {s : State} {i : Instr} (hC : ∀ nnn, i ≠ .call nnn) (hR : i ≠ .ret) (hD : ∀ x y n, i ≠ .drw x y n)
    (hB : ∀ x, i ≠ .ldBVx x) (hS : ∀ x, i ≠ .storeRegs x) (hL : ∀ x, i ≠ .loadRegs x) : s.faultOf i = none := by
  cases i with
  | call nnn => exact absurd rfl (hC nnn)
  | ret => exact absurd rfl hR
  | drw x y n => exact absurd rfl (hD x y n)
  | ldBVx x => exact absurd rfl (hB x)
  | storeRegs x => exact absurd rfl (hS x)
  | loadRegs x => exact absurd rfl (hL x)
  | _ => rfl

/-- After an instruction of a running machine `HALT` holds the condition the instruction met. -/
theorem State.after_halt {s : State} {i : Instr} (hrun : s.Running) : (s.after i).halt = s.faultOf i :=
  State.after_cases (P := fun t => t.halt = s.faultOf i) (fun _ hc => hc.symm) fun hnone =>
    (s.written_halt i).trans (hrun.trans hnone.symm)

/-- Settles O52: a fatal condition writes only `HALT` and the status, so each part has the writers it has in `written`. -/
theorem eachPartHasItsWriters : Obligations.EachPartHasItsWriters := by
  intro i s t hexec
  rw [eq_after_of_exec hexec]
  refine ⟨fun hB hS => ?_, ?_, fun r hr => ?_, fun hL hA hF => ?_, fun hC => ?_, fun hC hR => ?_, fun hD => ?_, fun hS => ?_,
    fun hC hD => ?_, ?_, fun hC hR hD hB hS hL => ?_, fun hR => ?_, ?_, ?_⟩
  · exact State.after_keeps State.mem (State.written_mem hB hS)
  · exact State.after_keeps (·.mem.glyphs) (s.written_glyphs i)
  · exact State.after_keeps (·.reg r) (State.written_reg hr)
  · exact State.after_keeps State.i (State.written_index hL hA hF)
  · exact State.after_keeps State.stack (State.written_stack hC)
  · exact State.after_keeps State.sp (State.written_depth hC hR)
  · exact State.after_keeps State.dt (State.written_delay hD)
  · exact State.after_keeps State.st (State.written_sound hS)
  · exact State.after_keeps State.pix (State.written_display hC hD)
  · exact State.after_keeps State.keys (s.written_keys i)
  · rw [State.after_of_faultOf_none (State.faultOf_none hC hR hD hB hS hL)]
    exact ⟨s.written_halt i, fun hK => State.written_status hK⟩
  · exact State.after_keeps State.draws (State.written_draws hR)
  · exact State.after_keeps State.report (s.written_report i)
  · exact State.after_keeps State.schedule (s.written_schedule i)

/-- Settles O53: VF changes only if `writesReg` lists it, that is, as a flag, as `Vx` with `x = 15`, or in the block of
LD VF,[I]. -/
theorem vFHasItsWriters : Obligations.VFHasItsWriters := by
  intro i s t hexec hne
  have hwrites : writesReg i 15 = true := by
    by_contra hno
    rw [eq_after_of_exec hexec] at hne
    exact hne (State.after_keeps (·.reg 15) (State.written_reg (Bool.eq_false_of_not_eq_true hno)))
  cases i with
  | ldImm | addImm | ldReg | orReg | andReg | xorReg | rnd | ldVxDT | ldVxK =>
    obtain rfl := eq_of_beq hwrites
    simp
  | addReg | subReg | shr | subnReg | shl | drw => simp
  | loadRegs x =>
    have hle : 15 ≤ x.toNat := of_decide_eq_true hwrites
    have hx : x = 15 := BitVec.eq_of_toNat_eq (Nat.le_antisymm (Nat.le_of_lt_succ x.isLt) hle)
    simp [hx]
  | _ => exact absurd hwrites Bool.false_ne_true

/-! ### The program counter (R77) -/

/-- Settles O54: a fatal condition leaves `pc`, and otherwise `pc` is written last, as the table says. -/
theorem pcGoesWhereTheTableSays : Obligations.PcGoesWhereTheTableSays := by
  intro i s t hrun hexec
  obtain rfl := eq_after_of_exec hexec
  rw [State.after_halt hrun]
  refine ⟨fun hnone => ?done, fun hsome => ?raised⟩
  case done => rw [State.after_of_faultOf_none hnone, State.setPc_pc]
  case raised =>
    obtain ⟨c, hc⟩ := Option.ne_none_iff_exists'.1 hsome
    rw [State.after_of_faultOf_some hc, State.raise_pc]

/-! ### The causes of the fatal conditions (R209) -/

theorem State.blockFault_eq_some {s : State} {count : Nat} {c : Fault} :
    s.blockFault count = some c ↔ c = .addressOutOfRange ∧ count ≠ 0 ∧ Config.memSize < s.i.toNat + count := by
  rw [State.blockFault]
  split_ifs with h
  · rw [rangeOk_iff, State.base] at h
    simp only [false_iff]
    omega
  · rw [rangeOk_iff, State.base] at h
    rw [Option.some.injEq, eq_comm, iff_self_and]
    omega

/-- The condition an instruction meets is the one its rule names. -/
theorem State.faultOf_cause {s : State} {i : Instr} {c : Fault} (h : s.faultOf i = some c) :
    (c = .stackOverflow ∧ (∃ nnn, i = .call nnn) ∧ s.sp.val = 16) ∨
    (c = .stackUnderflow ∧ i = .ret ∧ s.sp.val = 0) ∨
    (c = .addressOutOfRange ∧
      ((∃ x y n, i = .drw x y n ∧ 0 < n.toNat ∧ 0xFFF < s.i.toNat + n.toNat - 1) ∨
       (∃ x, i = .ldBVx x ∧ 0xFFF < s.i.toNat + 2) ∨
       (∃ x, i = .storeRegs x ∧ 0xFFF < s.i.toNat + x.toNat) ∨
       (∃ x, i = .loadRegs x ∧ 0xFFF < s.i.toNat + x.toNat))) := by
  cases i with
  | call nnn =>
    rw [State.faultOf] at h
    obtain ⟨hfull, hc⟩ := Option.ite_some_none_eq_some.1 h
    exact .inl ⟨hc.symm, ⟨nnn, rfl⟩, hfull⟩
  | ret =>
    rw [State.faultOf] at h
    obtain ⟨hempty, hc⟩ := Option.ite_some_none_eq_some.1 h
    exact .inr (.inl ⟨hc.symm, rfl, hempty⟩)
  | drw x y n =>
    obtain ⟨hc, hn, hrange⟩ := State.blockFault_eq_some.1 h
    exact .inr (.inr ⟨hc, .inl ⟨x, y, n, rfl, Nat.pos_of_ne_zero hn, Nat.lt_sub_of_add_lt hrange⟩⟩)
  | ldBVx x =>
    obtain ⟨hc, -, hrange⟩ := State.blockFault_eq_some.1 h
    exact .inr (.inr ⟨hc, .inr (.inl ⟨x, rfl, Nat.lt_of_succ_lt_succ hrange⟩)⟩)
  | storeRegs x =>
    obtain ⟨hc, -, hrange⟩ := State.blockFault_eq_some.1 h
    exact .inr (.inr ⟨hc, .inr (.inr (.inl ⟨x, rfl, Nat.lt_of_succ_lt_succ hrange⟩))⟩)
  | loadRegs x =>
    obtain ⟨hc, -, hrange⟩ := State.blockFault_eq_some.1 h
    exact .inr (.inr ⟨hc, .inr (.inr (.inr ⟨x, rfl, Nat.lt_of_succ_lt_succ hrange⟩))⟩)
  | _ => nomatch h

/-- Settles O51: a running machine has `HALT` set only by taking the condition the instruction meets. -/
theorem fatalConditionsArePreciseAndCaused : Obligations.FatalConditionsArePreciseAndCaused := by
  intro i s t c hrun hexec hhalt
  obtain rfl := eq_after_of_exec hexec
  rw [State.after_halt hrun] at hhalt
  rw [State.after_of_faultOf_some hhalt]
  exact ⟨onlyChanges_raise s c, State.faultOf_cause hhalt⟩

end Sys2Proof.Machine
end

section
/-! PROOFS. What no instruction reads (10_state.md R28, R29, R31, R35; 60_exceptions.md R215). The stack slots, the two timers and
the latch may be replaced before an instruction or after it, as long as the instruction does not use what is replaced. -/

namespace Sys2Proof.Machine

/-- A replacement of the stack slots, the timers and the latch, each by a function of its old value. -/
structure Recast where
  stack : Vector Word Config.stackCap → Vector Word Config.stackCap := id
  dt : Byte → Byte := id
  st : Byte → Byte := id
  keys : BitVec 16 → BitVec 16 := id

/-- The state with the replacement made. -/
def State.recast (s : State) (f : Recast) : State :=
  { s with stack := f.stack s.stack, dt := f.dt s.dt, st := f.st s.st, keys := f.keys s.keys }

/-- The replacement leaves alone what the instruction reads or writes among the four parts. -/
def Recast.Spares (f : Recast) : Instr → Prop
  | .call _ | .ret => f.stack = id
  | .ldVxDT _ | .ldDTVx _ => f.dt = id
  | .ldSTVx _ => f.st = id
  | .skp _ | .sknp _ | .ldVxK _ => f.keys = id
  | _ => True

section Recast

variable {f : Recast} {s : State} {i : Instr}

theorem State.faultOf_recast : (s.recast f).faultOf i = s.faultOf i := by
  cases i <;> rfl

theorem State.written_recast (h : f.Spares i) : (s.recast f).written i = (s.written i).recast f := by
  obtain ⟨stack, dt, st, keys⟩ := f
  cases i with
  | call | ret => obtain rfl : stack = id := h; rfl
  | ldVxDT | ldDTVx => obtain rfl : dt = id := h; rfl
  | ldSTVx => obtain rfl : st = id := h; rfl
  | ldVxK => obtain rfl : keys = id := h; rfl
  | _ => rfl

theorem pcAfter_recast (h : f.Spares i) : pcAfter (s.recast f) i = pcAfter s i := by
  obtain ⟨stack, dt, st, keys⟩ := f
  cases i with
  | ret => obtain rfl : stack = id := h; rfl
  | skp | sknp | ldVxK => obtain rfl : keys = id := h; rfl
  | _ => rfl

/-- An instruction and a replacement that spares it can be taken in either order. -/
theorem State.after_recast (h : f.Spares i) : (s.recast f).after i = (s.after i).recast f := by
  rw [State.after, State.after, State.faultOf_recast, State.written_recast h, pcAfter_recast h]
  cases s.faultOf i <;> rfl

theorem exec_recast (h : f.Spares i) : exec i (s.recast f) = .next ((s.after i).recast f) := by
  rw [exec_eq, State.after_recast h]

end Recast

/-- Settles O56: replacing `ST` spares every instruction but LD ST, Vx, which overwrites it by a register. -/
theorem soundTimerIsNeverRead : Obligations.SoundTimerIsNeverRead := by
  intro i s b
  by_cases hST : ∃ x, i = .ldSTVx x
  · obtain ⟨x, rfl⟩ := hST
    exact ⟨_, s.reg x, rfl, rfl⟩
  · have hspares : Recast.Spares { st := fun _ => b } i := by
      cases i with
      | ldSTVx x => exact absurd ⟨x, rfl⟩ hST
      | _ => trivial
    exact ⟨s.after i, b, exec_eq i s, exec_recast hspares⟩

/-- Settles O57: no instruction writes the latch, and replacing it spares every instruction but the three key instructions. -/
theorem onlyKeyInstructionsReadTheLatch : Obligations.OnlyKeyInstructionsReadTheLatch := by
  intro i s latch
  refine ⟨s.after i, exec_eq i s, State.after_keeps State.keys (s.written_keys i), fun hP hN hK => ?_⟩
  have hspares : Recast.Spares { keys := fun _ => latch } i := by
    cases i with
    | skp x => exact absurd rfl (hP x)
    | sknp x => exact absurd rfl (hN x)
    | ldVxK x => exact absurd rfl (hK x)
    | _ => trivial
  exact exec_recast hspares

/-- Settles O58: a tick replaces the timers, which spares every instruction but the three timer moves. -/
theorem ticksCommuteWithOtherInstructions : Obligations.TicksCommuteWithOtherInstructions := by
  intro i s hV hD hS
  have hspares : Recast.Spares { dt := tickDown, st := tickDown } i := by
    cases i with
    | ldVxDT x => exact absurd rfl (hV x)
    | ldDTVx x => exact absurd rfl (hD x)
    | ldSTVx x => exact absurd rfl (hS x)
    | _ => trivial
  exact ⟨s.after i, exec_eq i s, exec_recast hspares⟩

/-! ### Dead stack slots (R28) -/

/-- `other` agrees with the stack in the live slots. -/
def State.AgreesLive (s : State) (other : Vector Word Config.stackCap) : Prop :=
  ∀ k : Fin Config.stackCap, k.val < s.sp.val → other[k] = s.stack[k]

/-- The instruction gives from `s` and from `s` with the stack `other` two states that agree in the live slots. -/
def DeadSlotsUnobserved (i : Instr) (s : State) (other : Vector Word Config.stackCap) : Prop :=
  ∃ t other', exec i s = .next t ∧ exec i { s with stack := other } = .next { t with stack := other' } ∧ t.AgreesLive other'

theorem deadSlotsUnobserved_ret {s : State} {other : Vector Word Config.stackCap} (h : s.AgreesLive other) :
    DeadSlotsUnobserved .ret s other := by
  by_cases hempty : s.sp.val = 0
  · exact ⟨_, other, exec_ret_empty hempty, exec_ret_empty (s := { s with stack := other }) hempty, h⟩
  · obtain ⟨k, hk⟩ := s.exists_last_slot hempty
    have hlive : other[k] = s.stack[k] := h k (hk ▸ Nat.lt_succ_self _)
    have hother : exec .ret { s with stack := other } =
        .next (({ s with stack := other }.setDepth k.castSucc).setPc s.stack[k]) := by
      rw [exec_ret_pop (s := { s with stack := other }) hk, ← hlive]
    exact ⟨_, other, exec_ret_pop hk, hother, fun j hj => h j (hk ▸ Nat.lt_succ_of_lt hj)⟩

theorem deadSlotsUnobserved_call (nnn : Addr) {s : State} {other : Vector Word Config.stackCap} (h : s.AgreesLive other) :
    DeadSlotsUnobserved (.call nnn) s other := by
  by_cases hfull : s.sp.val = 16
  · exact ⟨_, other, exec_call_full nnn hfull, exec_call_full nnn (s := { s with stack := other }) hfull, h⟩
  · let k : Fin Config.stackCap := ⟨s.sp.val, lt_of_le_of_ne (Nat.le_of_lt_succ s.sp.isLt) hfull⟩
    refine ⟨_, other.set k (s.pc + 2), exec_call_push nnn (k := k) rfl,
      exec_call_push nnn (s := { s with stack := other }) (k := k) rfl, fun j hj => ?_⟩
    change (other.set k (s.pc + 2))[j] = (s.stack.set k (s.pc + 2))[j]
    rcases Nat.lt_succ_iff_lt_or_eq.1 hj with hlt | heq
    · have hne : k.val ≠ j.val := Nat.ne_of_gt hlt
      rw [Fin.getElem_fin, Fin.getElem_fin, Vector.getElem_set_ne _ _ hne, Vector.getElem_set_ne _ _ hne]
      exact h j hlt
    · obtain rfl : j = k := Fin.ext heq
      rw [Fin.getElem_fin, Fin.getElem_fin, Vector.getElem_set_self, Vector.getElem_set_self]

/-- Settles O55: RET pops and CALL pushes at live slots, and every other instruction leaves the stack and the depth. -/
theorem deadStackSlotsAreNeverObserved : Obligations.DeadStackSlotsAreNeverObserved := by
  intro i s other h
  by_cases hC : ∃ nnn, i = .call nnn
  · obtain ⟨nnn, rfl⟩ := hC
    exact deadSlotsUnobserved_call nnn h
  by_cases hR : i = .ret
  · exact hR ▸ deadSlotsUnobserved_ret h
  have hspares : Recast.Spares { stack := fun _ => other } i := by
    cases i with
    | call nnn => exact absurd ⟨nnn, rfl⟩ hC
    | ret => exact absurd rfl hR
    | _ => trivial
  have hC' : ∀ nnn, i ≠ .call nnn := fun nnn e => hC ⟨nnn, e⟩
  have hstack : (s.after i).stack = s.stack := State.after_keeps State.stack (State.written_stack hC')
  have hdepth : (s.after i).sp = s.sp := State.after_keeps State.sp (State.written_depth hC' hR)
  refine ⟨s.after i, other, exec_eq i s, exec_recast hspares, fun k hk => ?_⟩
  rw [hdepth] at hk
  simp only [hstack]
  exact h k hk

end Sys2Proof.Machine
end

section
/-! PROOFS. The step of the whole machine (00_scope.md R7; 30_encoding.md R70): one equation per kind of move, and one inversion
of a step. -/

namespace Sys2Proof.Machine

/-! ### The three agents' moves -/

theorem step_of_tick {s : State} {rest : List Move} (h : s.schedule = .tick :: rest) :
    step s = .next (s.setSchedule rest).tick := by
  rw [step, h]

theorem step_of_setKeys {s : State} {rest : List Move} {latch : BitVec 16} (h : s.schedule = .setKeys latch :: rest) :
    step s = .next ((s.setSchedule rest).setKeys latch) := by
  rw [step, h]

/-- On the engine's turn, by its schedule or because the schedule is at its end, the move is the engine's step. -/
theorem step_of_engineTurn {s : State} {rest : List Move} (h : s.EngineTurn rest) :
    step s = engineStep (s.setSchedule rest) := by
  rcases h with h | ⟨h, rfl⟩
  · rw [step, h]
  · have hself : s.setSchedule [] = s := h ▸ rfl
    rw [hself, step, h]

theorem State.schedule_cases (s : State) :
    (∃ rest, s.schedule = .tick :: rest) ∨ (∃ rest latch, s.schedule = .setKeys latch :: rest) ∨ ∃ rest, s.EngineTurn rest := by
  cases h : s.schedule with
  | nil => exact .inr (.inr ⟨[], .inr ⟨h, rfl⟩⟩)
  | cons move rest =>
    cases move with
    | engine => exact .inr (.inr ⟨rest, .inl h⟩)
    | tick => exact .inl ⟨rest, rfl⟩
    | setKeys latch => exact .inr (.inl ⟨rest, latch, rfl⟩)

/-- The engine's turn is no turn of the other two agents. -/
theorem State.EngineTurn.head {s : State} {rest rest' : List Move} {move : Move} (h : s.EngineTurn rest)
    (hmove : s.schedule = move :: rest') : move = .engine := by
  rcases h with h | ⟨h, -⟩
  · exact (List.cons.inj (hmove.symm.trans h)).1
  · exact nomatch hmove.symm.trans h

/-! ### The engine's step (R70) -/

section EngineStep

variable {s : State} {rest : List Move}

theorem fetch_setSchedule (hfetch : s.Fetchable) : fetch (s.setSchedule rest) = .ok s.wordAtPc :=
  fetch_ok (Nat.add_le_add_right hfetch 2)

variable (hturn : s.EngineTurn rest)
include hturn

theorem step_stopped {c : Fault} (h : s.halt = some c) : step s = .fault c := by
  simp only [step_of_engineTurn hturn, engineStep, State.setSchedule_halt, h]

variable (hrun : s.Running)
include hrun

theorem step_unfetchable (h : 0xFFE < s.pc.toNat) : step s = .next ((s.begun rest).raise .addressOutOfRange) := by
  have hhalt : s.halt = none := hrun
  have hword : fetch (s.setSchedule rest) = .error .addressOutOfRange := fetch_error (Nat.add_lt_add_right h 2)
  simp only [step_of_engineTurn hturn, engineStep, State.setSchedule_halt, hhalt, hword, State.begun]

variable (hfetch : s.Fetchable)
include hfetch

theorem step_unknown {r : Reject} (h : decodeWord s.wordAtPc = .error r) :
    step s = .next ((s.begun rest).skipUnknown s.wordAtPc) := by
  have hhalt : s.halt = none := hrun
  simp only [step_of_engineTurn hturn, engineStep, State.setSchedule_halt, hhalt, fetch_setSchedule hfetch, h, State.begun]

theorem step_exec {i : Instr} (h : decodeWord s.wordAtPc = .ok i) : step s = exec i (s.begun rest) := by
  have hhalt : s.halt = none := hrun
  simp only [step_of_engineTurn hturn, engineStep, State.setSchedule_halt, hhalt, fetch_setSchedule hfetch, h, State.begun]

end EngineStep

/-! ### What a step can do -/

/-- The five ways in which a step gives a next state. -/
inductive StepsTo (s : State) : State → Prop
  | tick {rest : List Move} (h : s.schedule = .tick :: rest) : StepsTo s (s.setSchedule rest).tick
  | setKeys {rest : List Move} {latch : BitVec 16} (h : s.schedule = .setKeys latch :: rest) :
      StepsTo s ((s.setSchedule rest).setKeys latch)
  | unfetchable {rest : List Move} (hturn : s.EngineTurn rest) (hrun : s.Running) (h : ¬ s.Fetchable) :
      StepsTo s ((s.begun rest).raise .addressOutOfRange)
  | unknown {rest : List Move} {r : Reject} (hturn : s.EngineTurn rest) (hrun : s.Running) (hfetch : s.Fetchable)
      (h : decodeWord s.wordAtPc = .error r) : StepsTo s ((s.begun rest).skipUnknown s.wordAtPc)
  | executed {rest : List Move} {i : Instr} (hturn : s.EngineTurn rest) (hrun : s.Running) (hfetch : s.Fetchable)
      (h : decodeWord s.wordAtPc = .ok i) : StepsTo s ((s.begun rest).after i)

/-- A step gives a next state in one of the five ways, or it is an engine step of a stopped machine. -/
theorem step_cases (s : State) :
    (∃ t, step s = .next t ∧ StepsTo s t) ∨ ∃ rest c, s.EngineTurn rest ∧ s.halt = some c ∧ step s = .fault c := by
  rcases s.schedule_cases with ⟨rest, h⟩ | ⟨rest, latch, h⟩ | ⟨rest, hturn⟩
  · exact .inl ⟨_, step_of_tick h, .tick h⟩
  · exact .inl ⟨_, step_of_setKeys h, .setKeys h⟩
  cases hhalt : s.halt with
  | some c => exact .inr ⟨rest, c, hturn, rfl, step_stopped hturn hhalt⟩
  | none =>
    refine .inl ?_
    by_cases hfetch : s.Fetchable
    · cases hd : decodeWord s.wordAtPc with
      | error r => exact ⟨_, step_unknown hturn hhalt hfetch hd, .unknown hturn hhalt hfetch hd⟩
      | ok i => exact ⟨_, (step_exec hturn hhalt hfetch hd).trans (exec_eq i _), .executed hturn hhalt hfetch hd⟩
    · exact ⟨_, step_unfetchable hturn hhalt (Nat.lt_of_not_le hfetch), .unfetchable hturn hhalt hfetch⟩

/-- INVERSION of a step: every next state comes about in one of the five ways. -/
theorem stepsTo_of_step {s t : State} (h : step s = .next t) : StepsTo s t := by
  rcases step_cases s with ⟨u, hu, hsteps⟩ | ⟨_, c, _, _, hfault⟩
  · exact Host.Outcome.next.inj (h.symm.trans hu) ▸ hsteps
  · exact nomatch h.symm.trans hfault

/-- Settles O11: the cases of a step, with nothing said of the next state. -/
theorem onlyAStoppedEngineFaults : Obligations.OnlyAStoppedEngineFaults := fun s =>
  (step_cases s).imp_left fun ⟨t, ht, _⟩ => ⟨t, ht⟩

/-! ### The step, move by move -/

theorem onlyChanges_setSchedule (s : State) (moves : List Move) : OnlyChanges s (s.setSchedule moves) [.schedule] := by
  intro p hp
  cases p with
  | schedule => simp at hp
  | _ => rfl

theorem onlyChanges_tick (s : State) : OnlyChanges s s.tick [.delay, .sound] := by
  intro p hp
  cases p with
  | delay | sound => simp at hp
  | _ => rfl

theorem onlyChanges_setKeys (s : State) (latch : BitVec 16) : OnlyChanges s (s.setKeys latch) [.keys] := by
  intro p hp
  cases p with
  | keys => simp at hp
  | _ => rfl

theorem onlyChanges_begun (s : State) (rest : List Move) : OnlyChanges s (s.begun rest) [.status, .report, .schedule] := by
  intro p hp
  cases p with
  | status | report | schedule => simp at hp
  | _ => rfl

theorem onlyChanges_skipUnknown (s : State) (w : Word) : OnlyChanges s (s.skipUnknown w) [.pc, .report] := by
  intro p hp
  cases p with
  | pc | report => simp at hp
  | _ => rfl

/-- Settles O7: the engine's step fetches the word at `pc` and executes what it decodes to. -/
theorem stepRunsTheDecodedInstruction : Obligations.StepRunsTheDecodedInstruction :=
  fun _ _ _ hturn hrun hfetch => step_exec hturn hrun hfetch

/-- Settles O8: a word no row matches does not decode, so the step skips it. -/
theorem unknownWordsAreReportedAndSkipped : Obligations.UnknownWordsAreReportedAndSkipped := by
  intro s rest hturn hrun hfetch hrows
  have hunknown : decodeWord s.wordAtPc = .error (.unknown s.wordAtPc) := by
    refine (decodeWord_ok_or_unknown s.wordAtPc).resolve_left fun ⟨i, _, hw⟩ => ?_
    exact hrows _ (row_mem_opcodeRows i) (hw ▸ encode_and_rowMask i)
  exact ⟨_, step_unknown hturn hrun hfetch hunknown, BitVec.toNat_add .., rfl, rfl, rfl,
    ((onlyChanges_begun s rest).trans (onlyChanges_skipUnknown _ _)).of_subset (by simp)⟩

/-- Settles O9: the fetch fails, and the step takes the fatal condition. -/
theorem fetchPastTheEndIsFatal : Obligations.FetchPastTheEndIsFatal := by
  intro s rest hturn hrun hpc
  exact ⟨_, step_unfetchable hturn hrun hpc, rfl, rfl, rfl, rfl,
    ((onlyChanges_begun s rest).trans (onlyChanges_raise _ _)).of_subset (by simp)⟩

/-- Settles O10: the engine's step looks at `HALT` first. -/
theorem stoppedEngineStaysStopped : Obligations.StoppedEngineStaysStopped := fun _ _ _ hturn => step_stopped hturn

/-- Settles O12: the move is the tick of the state with the schedule one move shorter. -/
theorem tickCountsBothTimersDown : Obligations.TickCountsBothTimersDown := by
  intro s rest h
  exact ⟨_, step_of_tick h, tickDown_toNat s.dt, tickDown_toNat s.st, rfl,
    ((onlyChanges_setSchedule s rest).trans (onlyChanges_tick _)).of_subset (by simp)⟩

/-- Settles O13: the move is the write of the latch in the state with the schedule one move shorter. -/
theorem hostWritesOnlyTheLatch : Obligations.HostWritesOnlyTheLatch := by
  intro s rest latch h
  exact ⟨_, step_of_setKeys h, rfl, rfl,
    ((onlyChanges_setSchedule s rest).trans (onlyChanges_setKeys _ latch)).of_subset (by simp)⟩

/-- Settles O50: with `HALT` set only the two moves that are no engine step give a next state. -/
theorem fatalLatchIsSticky : Obligations.FatalLatchIsSticky := by
  intro s t c hhalt hstep
  have hstopped : ¬ s.Running := fun hrun => nomatch hhalt.symm.trans hrun
  cases stepsTo_of_step hstep with
  | tick => exact ⟨hhalt, ((onlyChanges_setSchedule s _).trans (onlyChanges_tick _)).of_subset (by simp)⟩
  | setKeys => exact ⟨hhalt, ((onlyChanges_setSchedule s _).trans (onlyChanges_setKeys _ _)).of_subset (by simp)⟩
  | unfetchable _ hrun | unknown _ hrun | executed _ hrun => exact absurd hrun hstopped

/-- Settles O59: JP to its own address writes `pc` with what it holds, so that the step only begins. -/
theorem selfJumpStaysAtItsEnd : Obligations.SelfJumpStaysAtItsEnd := by
  intro s rest hturn hend
  obtain ⟨hrun, hfetch, nnn, hdecode, htarget⟩ := hend
  have hexec : exec (.jp nnn) (s.begun rest) = .next (s.begun rest) := by
    rw [exec_jp, htarget]
    rfl
  exact ⟨s.begun rest, (step_exec hturn hrun hfetch hdecode).trans hexec, rfl, rfl, rfl,
    ⟨hrun, hfetch, nnn, hdecode, htarget⟩, onlyChanges_begun s rest⟩

end Sys2Proof.Machine
end

section
/-! PROOFS. The three invariants of every step (20_memory.md, 10_state.md R26, 60_exceptions.md R200, R201) and the status a step
hands back. Each is a lemma about one instruction, and then the cases of a step. -/

namespace Sys2Proof.Machine

/-! ### Memory stays canonical -/

theorem State.written_memoryCanonical {s : State} (h : s.MemoryCanonical) (i : Instr) : (s.written i).MemoryCanonical := by
  cases i with
  | ldBVx | storeRegs => exact wf_memWriteList h
  | _ => exact h

theorem State.after_memoryCanonical {s : State} (h : s.MemoryCanonical) (i : Instr) : (s.after i).MemoryCanonical :=
  State.after_cases (fun _ _ => h) fun _ => State.written_memoryCanonical h i

/-- Settles O46: only an instruction writes memory, and it writes it by stores, which keep the form. -/
theorem stepKeepsMemoryCanonical : Obligations.StepKeepsMemoryCanonical := by
  intro s t hs hstep
  cases stepsTo_of_step hstep with
  | tick | setKeys | unfetchable | unknown => exact hs
  | @executed rest => exact State.after_memoryCanonical (s := s.begun rest) hs _

/-! ### `pc` and the live return addresses stay bounded (R26) -/

/-- After a fetch `pc` is at most 0xFFE, so a small step ahead of it is near 0x1000. -/
theorem pc_add_le {s : State} (h : s.Fetchable) (k : Word) : (s.pc + k).toNat ≤ 0xFFE + k.toNat := by
  rw [BitVec.toNat_add]
  exact (Nat.mod_le ..).trans (Nat.add_le_add_right h _)

theorem addrOperand_le (nnn : Addr) : (addrOperand nnn).toNat ≤ 0xFFF :=
  addrOperand_toNat nnn ▸ Nat.le_of_lt_succ nnn.isLt

/-- Wherever the table sends `pc`, it is at most 0x10FE, the largest sum of JP V0. -/
theorem pcAfter_le {s : State} {i : Instr} (hfetch : s.Fetchable) (hs : s.PcBounded) (hi : s.faultOf i = none) :
    (pcAfter s i).toNat ≤ 0x10FE := by
  obtain ⟨hpc, hlive⟩ := hs
  have h2 : (s.pc + 2).toNat ≤ 0x10FE := (pc_add_le hfetch 2).trans (by decide)
  have h4 : (s.pc + 4).toNat ≤ 0x10FE := (pc_add_le hfetch 4).trans (by decide)
  cases i with
  | jp nnn | call nnn => exact (addrOperand_le nnn).trans (by decide)
  | jpV0 nnn =>
    refine (jpV0_target_toNat nnn s).trans_le ?_
    have hn := nnn.isLt
    have hv := (s.reg 0).isLt
    omega
  | ret =>
    obtain ⟨k, hk⟩ := s.exists_last_slot fun hempty => by simp [State.faultOf, hempty] at hi
    rw [pcAfter_ret hk]
    exact (hlive k (hk ▸ Nat.lt_succ_self _)).trans (by decide)
  | seImm | sneImm | seReg | sneReg | skp | sknp | ldVxK => rw [pcAfter]; split_ifs <;> assumption
  | _ => exact h2

/-- The live return addresses after a write: CALL adds `pc + 2`, RET takes one away. -/
theorem State.written_live {s : State} {i : Instr} (hfetch : s.Fetchable)
    (hlive : ∀ k : Fin Config.stackCap, k.val < s.sp.val → (s.stack[k]).toNat ≤ 0x1000) (k : Fin Config.stackCap)
    (hk : k.val < (s.written i).sp.val) : ((s.written i).stack[k]).toNat ≤ 0x1000 := by
  cases i with
  | call nnn =>
    have hget : (s.written (.call nnn)).stack[k] = if s.sp.val = k.val then s.pc + 2 else s.stack[k] :=
      Vector.getElem_setIfInBounds k.isLt
    have hk' : k.val < s.sp.val + 1 := Nat.lt_of_lt_of_le hk (Nat.min_le_left ..)
    rw [hget]
    split_ifs with hslot
    · exact pc_add_le hfetch 2
    · exact hlive k (by omega)
  | ret => exact hlive k (Nat.lt_of_lt_of_le hk (Nat.sub_le ..))
  | _ => exact hlive k hk

theorem State.after_pcBounded {s : State} {i : Instr} (hfetch : s.Fetchable) (hs : s.PcBounded) : (s.after i).PcBounded :=
  State.after_cases (fun _ _ => hs) fun hi => ⟨pcAfter_le hfetch hs hi, State.written_live hfetch hs.2⟩

/-- Settles O47: only an engine step that fetched moves `pc` or the stack, and it fetched at or below 0xFFE. -/
theorem stepKeepsPcBounded : Obligations.StepKeepsPcBounded := by
  intro s t hs hstep
  cases stepsTo_of_step hstep with
  | tick | setKeys | unfetchable => exact hs
  | unknown _ _ hfetch => exact ⟨(pc_add_le hfetch 2).trans (by decide), hs.2⟩
  | executed _ _ hfetch => exact State.after_pcBounded hfetch hs

/-! ### The status agrees with the latch (R200, R201) -/

theorem State.statusAgrees_raise (s : State) (c : Fault) : (s.raise c).StatusAgrees := fun d => by simp

theorem State.statusAgrees_of_running {s : State} (hrun : s.Running) (hs : ∀ c, s.status ≠ .fatal c) : s.StatusAgrees := fun c =>
  ⟨fun h => (nomatch hrun.symm.trans h), fun h => absurd h (hs c)⟩

/-- The status an instruction leaves that began with `Ok`: `WaitKey` for LD Vx, K with no key held, and otherwise `Ok`. -/
theorem State.written_status_cases {s : State} (hs : s.status = .ok) (i : Instr) :
    ((s.written i).status = .waitKey ∧ (∃ x, i = .ldVxK x) ∧ s.lowestKey = none) ∨
    ((s.written i).status = .ok ∧ ¬ ((∃ x, i = .ldVxK x) ∧ s.lowestKey = none)) := by
  by_cases hK : ∃ x, i = .ldVxK x
  · obtain ⟨x, rfl⟩ := hK
    have hstatus : (s.written (.ldVxK x)).status = s.lowestKey.elim .waitKey fun _ => s.status := rfl
    cases hkey : s.lowestKey with
    | none => exact .inl ⟨by rw [hstatus, hkey, Option.elim_none], ⟨x, rfl⟩, rfl⟩
    | some k => exact .inr ⟨by rw [hstatus, hkey, Option.elim_some, hs], fun h => nomatch h.2⟩
  · exact .inr ⟨(State.written_status fun x hx => hK ⟨x, hx⟩).trans hs, fun h => hK h.1⟩

theorem State.after_statusAgrees {s : State} (hrun : s.Running) (hs : s.status = .ok) (i : Instr) : (s.after i).StatusAgrees := by
  refine State.after_cases (fun c _ => s.statusAgrees_raise c) fun _ => ?_
  refine State.statusAgrees_of_running ((s.written_halt i).trans hrun) fun c hc => ?_
  rcases State.written_status_cases hs i with ⟨h, -⟩ | ⟨h, -⟩
  · exact nomatch h.symm.trans hc
  · exact nomatch h.symm.trans hc

/-- A step keeps the agreement, and an engine step brings it about whatever the status was. -/
theorem StepsTo.statusAgrees {s t : State} (h : StepsTo s t) (hs : s.StatusAgrees ∨ ∃ rest, s.EngineTurn rest) :
    t.StatusAgrees := by
  cases h with
  | tick h | setKeys h => exact hs.resolve_right fun ⟨_, hturn⟩ => nomatch hturn.head h
  | unfetchable => exact State.statusAgrees_raise _ _
  | unknown _ hrun => exact State.statusAgrees_of_running hrun fun _ hc => nomatch hc
  | @executed rest _ _ hrun => exact State.after_statusAgrees (s := s.begun rest) hrun rfl _

/-- Settles O48: one half of the lemma on a step and its status. -/
theorem stepKeepsStatusAgreeing : Obligations.StepKeepsStatusAgreeing := fun _ _ hs hstep =>
  (stepsTo_of_step hstep).statusAgrees (.inl hs)

/-! ### The status `WaitKey` (R200) -/

theorem State.after_waits_iff {s : State} (hs : s.status = .ok) (i : Instr) :
    (s.after i).status = .waitKey ↔ (∃ x, i = .ldVxK x) ∧ s.lowestKey = none := by
  refine State.after_cases (P := fun t => t.status = .waitKey ↔ (∃ x, i = .ldVxK x) ∧ s.lowestKey = none) (fun c hc => ?raised)
    fun _ => ?done
  case raised =>
    refine iff_of_false (fun h => nomatch h) ?_
    rintro ⟨⟨x, rfl⟩, -⟩
    exact nomatch hc
  case done =>
    rw [State.setPc_status]
    rcases State.written_status_cases hs i with ⟨h, hwait⟩ | ⟨h, hwait⟩
    · exact iff_of_true h hwait
    · exact iff_of_false (fun h' => nomatch h.symm.trans h') hwait

/-- Settles O14: an engine step brings status and latch into agreement, and of its three endings only an executed LD Vx, K with
no key held waits. -/
theorem statusSaysHowTheStepEnded : Obligations.StatusSaysHowTheStepEnded := by
  intro s t rest hturn hrun hstep
  have hsteps := stepsTo_of_step hstep
  refine ⟨fun c => (hsteps.statusAgrees (.inr ⟨rest, hturn⟩) c).symm, ?wait⟩
  cases hsteps with
  | tick h | setKeys h => exact nomatch hturn.head h
  | unfetchable _ _ hfetch => exact iff_of_false (fun h => nomatch h) fun h => hfetch h.1
  | unknown _ _ _ hdecode =>
    exact iff_of_false (fun h => nomatch h) fun ⟨_, ⟨_, hx⟩, _⟩ => nomatch hx.symm.trans hdecode
  | @executed _ i _ _ hfetch hdecode =>
    rw [State.after_waits_iff rfl, State.lowestKey_none]
    have hsame : (∃ x, i = .ldVxK x) ↔ ∃ x, decodeWord s.wordAtPc = .ok (.ldVxK x) := by
      simp only [hdecode, Except.ok.injEq]
    exact ⟨fun ⟨hi, hkeys⟩ => ⟨hfetch, hsame.1 hi, hkeys⟩, fun ⟨_, hi, hkeys⟩ => ⟨hsame.2 hi, hkeys⟩⟩

end Sys2Proof.Machine
end
